-- ==== Sys2Proof/Word.lean ====
section
/-! DEFINITION. The words of the unit: bytes of the buffer space and of GF(2^8), 32-bit registers and command words
(spec/00_scope.md R8, R9). -/

namespace Sys2Proof

/-- A buffer byte, a codeword, an element of GF(2^8) (R40, R130). -/
abbrev Byte := BitVec 8

/-- A register of REG, a command word (R21, R90). -/
abbrev Word := BitVec 32

/-- A 16-bit register or the FINFO field (R23, R25, R26). -/
abbrev Half := BitVec 16

/-- `zext_32` of a natural number below 2^32 (R9, R126). -/
abbrev word (n : Nat) : Word := BitVec.ofNat 32 n

/-- Bit 7 first: the eight bits of a byte in stream order (R11). -/
abbrev streamBit (b : Byte) (i : Nat) : Bool := b.getLsbD (7 - i)

end Sys2Proof
end

