-- ==== Sys2Proof/Syntax.lean ====
section
/-! DEFINITION. The command set QCMD version 1: one constructor per row of the command table (spec/30_encoding.md R94).
A field element is a byte; every other operand is the natural number its 8-bit field holds (R92). -/

namespace Sys2Proof

/-- The 25 commands (R94). Operand names are those of the table. -/
inductive Instr where
  /-- NOP, R121. -/
  | nop
  /-- CLRF, R122. -/
  | clrf
  /-- GFADD a, b, R140. -/
  | gfadd (a b : Byte)
  /-- GFMUL a, b, R141. -/
  | gfmul (a b : Byte)
  /-- GFEXP i, R142. -/
  | gfexp (i : Nat)
  /-- GFLOG a, R143. -/
  | gflog (a : Byte)
  /-- GFROW c, R144. -/
  | gfrow (c : Byte)
  /-- GFGEN d, R145. -/
  | gfgen (d : Nat)
  /-- RSENC len, eccLen, R170. -/
  | rsenc (len eccLen : Nat)
  /-- RSBIT bitPosition, byteExponent, eccLen, R171. -/
  | rsbit (bitPosition byteExponent eccLen : Nat)
  /-- LAYOUT version, ecLevel, R220. -/
  | layout (version ecLevel : Nat)
  /-- SETMASK maskVersion, R221. -/
  | setmask (maskVersion : Nat)
  /-- CELL x, y, R222. -/
  | cell (x y : Nat)
  /-- MASKBIT x, y, R223. -/
  | maskbit (x y : Nat)
  /-- FMTINFO, R224. -/
  | fmtinfo
  /-- VERINFO, R225. -/
  | verinfo
  /-- BLKINFO k, R226. -/
  | blkinfo (k : Nat)
  /-- CAPINFO, R227. -/
  | capinfo
  /-- ENC ecLevel, mode, R290. -/
  | enc (ecLevel mode : Nat)
  /-- ENCV version, ecLevel, mode, R291. -/
  | encv (version ecLevel mode : Nat)
  /-- SOLVEBLK k [, RAW], R340. -/
  | solveblk (k : Nat) (raw : Bool)
  /-- BUILD, R371. -/
  | build
  /-- ASSEMBLE, R372. -/
  | assemble
  /-- GET x, y, R373. -/
  | get (x y : Nat)
  /-- SIZE, R374. -/
  | size
deriving DecidableEq, Repr

end Sys2Proof
end

