-- ==== Sys2Proof/WellFormed.lean ====
section
/-! DEFINITION. Which instructions the 32-bit command word can carry: every numeric operand is the value of an 8-bit field
(spec/30_encoding.md R91, R92). A value outside its command's own range (a version of 41) is well formed and raises the
command's fault (R97). -/

namespace Sys2Proof

/-- An operand that fits its 8-bit field (R92). -/
def fitsField (n : Nat) : Bool := n < 256

/-- The check of every operand of an instruction (R92). -/
def Instr.wellFormed : Instr → Bool
  | .nop => true
  | .clrf => true
  | .gfadd _ _ => true
  | .gfmul _ _ => true
  | .gfexp i => fitsField i
  | .gflog _ => true
  | .gfrow _ => true
  | .gfgen d => fitsField d
  | .rsenc len eccLen => fitsField len && fitsField eccLen
  | .rsbit bitPosition byteExponent eccLen => fitsField bitPosition && fitsField byteExponent && fitsField eccLen
  | .layout version ecLevel => fitsField version && fitsField ecLevel
  | .setmask maskVersion => fitsField maskVersion
  | .cell x y => fitsField x && fitsField y
  | .maskbit x y => fitsField x && fitsField y
  | .fmtinfo => true
  | .verinfo => true
  | .blkinfo k => fitsField k
  | .capinfo => true
  | .enc ecLevel mode => fitsField ecLevel && fitsField mode
  | .encv version ecLevel mode => fitsField version && fitsField ecLevel && fitsField mode
  | .solveblk k _ => fitsField k
  | .build => true
  | .assemble => true
  | .get x y => fitsField x && fitsField y
  | .size => true

end Sys2Proof
end

