-- ==== Sys2Proof/Decode.lean ====
section
/-! DEFINITION. The command word: its fields, the opcode map, the decoder, which is total on 32-bit words and rejects by
name, and the encoder (spec/30_encoding.md R90 to R97). -/

namespace Sys2Proof

/-! The opcode map (R93, R94). -/

def opNop : Byte := 0x00
def opClrf : Byte := 0x01
def opGfadd : Byte := 0x10
def opGfmul : Byte := 0x11
def opGfexp : Byte := 0x12
def opGflog : Byte := 0x13
def opGfrow : Byte := 0x14
def opGfgen : Byte := 0x15
def opRsenc : Byte := 0x20
def opRsbit : Byte := 0x21
def opLayout : Byte := 0x30
def opSetmask : Byte := 0x31
def opCell : Byte := 0x32
def opMaskbit : Byte := 0x33
def opFmtinfo : Byte := 0x34
def opVerinfo : Byte := 0x35
def opBlkinfo : Byte := 0x36
def opCapinfo : Byte := 0x37
def opEnc : Byte := 0x40
def opEncv : Byte := 0x41
def opSolveblk : Byte := 0x50
def opBuild : Byte := 0x60
def opAssemble : Byte := 0x61
def opGet : Byte := 0x62
def opSize : Byte := 0x63

/-! The four fields of a command word (R91). -/

/-- `w[7:0]`, the opcode. -/
def fieldOp (w : Word) : Byte := w.extractLsb' 0 8
/-- `w[15:8]`, the first operand. -/
def fieldA (w : Word) : Byte := w.extractLsb' 8 8
/-- `w[23:16]`, the second operand. -/
def fieldB (w : Word) : Byte := w.extractLsb' 16 8
/-- `w[31:24]`, the third operand. -/
def fieldC (w : Word) : Byte := w.extractLsb' 24 8

/-- The word with the given fields (R91). -/
def packFields (op a b c : Byte) : Word := c ++ b ++ a ++ op

/-- Why a word is illegal (R95): its opcode byte is not in the table, or a listed opcode has a non-zero bit in a
must-be-zero field. -/
inductive IllegalWord where
  | unlistedOpcode (op : Byte)
  | nonzeroField (op : Byte)
deriving DecidableEq, Repr

/-- A listed opcode decodes to its command only when the fields it does not use are 0 (R91, R95). -/
def whenZero (op : Byte) (unused : List Byte) (i : Instr) : Except IllegalWord Instr :=
  if unused.all (fun f => f == 0) then .ok i else .error (.nonzeroField op)

/-- Decoding by fields (R91, R92, R94). Shape Z leaves a, b, c unused, shape A b and c, shape AB c, shape AC b and the
bits `c[7:1]`. -/
def decodeFields (op a b c : Byte) : Except IllegalWord Instr :=
  if op = opNop then whenZero op [a, b, c] .nop
  else if op = opClrf then whenZero op [a, b, c] .clrf
  else if op = opGfadd then whenZero op [c] (.gfadd a b)
  else if op = opGfmul then whenZero op [c] (.gfmul a b)
  else if op = opGfexp then whenZero op [b, c] (.gfexp a.toNat)
  else if op = opGflog then whenZero op [b, c] (.gflog a)
  else if op = opGfrow then whenZero op [b, c] (.gfrow a)
  else if op = opGfgen then whenZero op [b, c] (.gfgen a.toNat)
  else if op = opRsenc then whenZero op [c] (.rsenc a.toNat b.toNat)
  else if op = opRsbit then whenZero op [] (.rsbit a.toNat b.toNat c.toNat)
  else if op = opLayout then whenZero op [c] (.layout a.toNat b.toNat)
  else if op = opSetmask then whenZero op [b, c] (.setmask a.toNat)
  else if op = opCell then whenZero op [c] (.cell a.toNat b.toNat)
  else if op = opMaskbit then whenZero op [c] (.maskbit a.toNat b.toNat)
  else if op = opFmtinfo then whenZero op [a, b, c] .fmtinfo
  else if op = opVerinfo then whenZero op [a, b, c] .verinfo
  else if op = opBlkinfo then whenZero op [b, c] (.blkinfo a.toNat)
  else if op = opCapinfo then whenZero op [a, b, c] .capinfo
  else if op = opEnc then whenZero op [c] (.enc a.toNat b.toNat)
  else if op = opEncv then whenZero op [] (.encv a.toNat b.toNat c.toNat)
  else if op = opSolveblk then whenZero op [b, c >>> 1] (.solveblk a.toNat (c.getLsbD 0))
  else if op = opBuild then whenZero op [a, b, c] .build
  else if op = opAssemble then whenZero op [a, b, c] .assemble
  else if op = opGet then whenZero op [c] (.get a.toNat b.toNat)
  else if op = opSize then whenZero op [a, b, c] .size
  else .error (.unlistedOpcode op)

/-- The decoder: every 32-bit word is exactly one command or illegal (R95). -/
def decode (w : Word) : Except IllegalWord Instr :=
  decodeFields (fieldOp w) (fieldA w) (fieldB w) (fieldC w)

/-- The value of an operand in its field (R92). An operand above 255, which no field carries, is reduced modulo 256: DESIGN
CHOICE, log entry 13. -/
def operandField (n : Nat) : Byte := BitVec.ofNat 8 n

/-- The word of an instruction (R91, R94). -/
def encode : Instr → Word
  | .nop => packFields opNop 0 0 0
  | .clrf => packFields opClrf 0 0 0
  | .gfadd a b => packFields opGfadd a b 0
  | .gfmul a b => packFields opGfmul a b 0
  | .gfexp i => packFields opGfexp (operandField i) 0 0
  | .gflog a => packFields opGflog a 0 0
  | .gfrow c => packFields opGfrow c 0 0
  | .gfgen d => packFields opGfgen (operandField d) 0 0
  | .rsenc len eccLen => packFields opRsenc (operandField len) (operandField eccLen) 0
  | .rsbit bitPosition byteExponent eccLen =>
    packFields opRsbit (operandField bitPosition) (operandField byteExponent) (operandField eccLen)
  | .layout version ecLevel => packFields opLayout (operandField version) (operandField ecLevel) 0
  | .setmask maskVersion => packFields opSetmask (operandField maskVersion) 0 0
  | .cell x y => packFields opCell (operandField x) (operandField y) 0
  | .maskbit x y => packFields opMaskbit (operandField x) (operandField y) 0
  | .fmtinfo => packFields opFmtinfo 0 0 0
  | .verinfo => packFields opVerinfo 0 0 0
  | .blkinfo k => packFields opBlkinfo (operandField k) 0 0
  | .capinfo => packFields opCapinfo 0 0 0
  | .enc ecLevel mode => packFields opEnc (operandField ecLevel) (operandField mode) 0
  | .encv version ecLevel mode =>
    packFields opEncv (operandField version) (operandField ecLevel) (operandField mode)
  | .solveblk k raw => packFields opSolveblk (operandField k) 0 (if raw then 1 else 0)
  | .build => packFields opBuild 0 0 0
  | .assemble => packFields opAssemble 0 0 0
  | .get x y => packFields opGet (operandField x) (operandField y) 0
  | .size => packFields opSize 0 0 0

/-! The command table as the spec prints it (R94): a word is the command exactly when `w and mask = match`. -/

/-- A row of the command table: the mnemonic, and the columns `match` and `mask`. -/
structure TableRow where
  mnemonic : String
  pattern : Word
  mask : Word
deriving DecidableEq, Repr

/-- `w and mask = match` (R94). -/
def TableRow.covers (r : TableRow) (w : Word) : Bool := w &&& r.mask == r.pattern

/-- Families 0x0 and 0x1 of the table (R94). -/
def rowsControlGalois : List TableRow :=
  [⟨"NOP", 0x00000000, 0xFFFFFFFF⟩, ⟨"CLRF", 0x00000001, 0xFFFFFFFF⟩, ⟨"GFADD", 0x00000010, 0xFF0000FF⟩,
   ⟨"GFMUL", 0x00000011, 0xFF0000FF⟩, ⟨"GFEXP", 0x00000012, 0xFFFF00FF⟩, ⟨"GFLOG", 0x00000013, 0xFFFF00FF⟩,
   ⟨"GFROW", 0x00000014, 0xFFFF00FF⟩, ⟨"GFGEN", 0x00000015, 0xFFFF00FF⟩]

/-- Families 0x2 and 0x3 of the table (R94). -/
def rowsCodecLayout : List TableRow :=
  [⟨"RSENC", 0x00000020, 0xFF0000FF⟩, ⟨"RSBIT", 0x00000021, 0x000000FF⟩, ⟨"LAYOUT", 0x00000030, 0xFF0000FF⟩,
   ⟨"SETMASK", 0x00000031, 0xFFFF00FF⟩, ⟨"CELL", 0x00000032, 0xFF0000FF⟩, ⟨"MASKBIT", 0x00000033, 0xFF0000FF⟩,
   ⟨"FMTINFO", 0x00000034, 0xFFFFFFFF⟩, ⟨"VERINFO", 0x00000035, 0xFFFFFFFF⟩, ⟨"BLKINFO", 0x00000036, 0xFFFF00FF⟩,
   ⟨"CAPINFO", 0x00000037, 0xFFFFFFFF⟩]

/-- Families 0x4 to 0x6 of the table (R94). -/
def rowsEncoderSolverAssembler : List TableRow :=
  [⟨"ENC", 0x00000040, 0xFF0000FF⟩, ⟨"ENCV", 0x00000041, 0x000000FF⟩, ⟨"SOLVEBLK", 0x00000050, 0xFEFF00FF⟩,
   ⟨"BUILD", 0x00000060, 0xFFFFFFFF⟩, ⟨"ASSEMBLE", 0x00000061, 0xFFFFFFFF⟩, ⟨"GET", 0x00000062, 0xFF0000FF⟩,
   ⟨"SIZE", 0x00000063, 0xFFFFFFFF⟩]

/-- The complete command table, 25 rows (R94). -/
def opcodeTable : List TableRow := rowsControlGalois ++ rowsCodecLayout ++ rowsEncoderSolverAssembler

/-- The mnemonic of an instruction (R94). -/
def Instr.mnemonic : Instr → String
  | .nop => "NOP"
  | .clrf => "CLRF"
  | .gfadd _ _ => "GFADD"
  | .gfmul _ _ => "GFMUL"
  | .gfexp _ => "GFEXP"
  | .gflog _ => "GFLOG"
  | .gfrow _ => "GFROW"
  | .gfgen _ => "GFGEN"
  | .rsenc _ _ => "RSENC"
  | .rsbit _ _ _ => "RSBIT"
  | .layout _ _ => "LAYOUT"
  | .setmask _ => "SETMASK"
  | .cell _ _ => "CELL"
  | .maskbit _ _ => "MASKBIT"
  | .fmtinfo => "FMTINFO"
  | .verinfo => "VERINFO"
  | .blkinfo _ => "BLKINFO"
  | .capinfo => "CAPINFO"
  | .enc _ _ => "ENC"
  | .encv _ _ _ => "ENCV"
  | .solveblk _ _ => "SOLVEBLK"
  | .build => "BUILD"
  | .assemble => "ASSEMBLE"
  | .get _ _ => "GET"
  | .size => "SIZE"

/-- The instruction the decoder reads from a word numbered as spec/opcode_table.json numbers it, `nbits` bits of it given
and the rest 0 (R90: every command is one 32-bit word). -/
def decodeTableWord (nbits w : Nat) : Option Instr :=
  let v := w % 2 ^ nbits
  if v < 2 ^ 32 then (decode (word v)).toOption else none

end Sys2Proof
end

