-- ==== Sys2Proof/Config.lean ====
section
/-! DEFINITION. What is fixed for the life of the model and what the spec leaves free (spec/00_scope.md R5, R6, R7,
spec/10_state.md R47). The kinds the configuration tables are indexed by, the parameters the document fixes, and the free
values: constants with no body, so that no proof can know one. The configuration tables of R6 and R7 stand, as plain
definitions, in Sys2Proof/Machine/Tables.lean. -/

namespace Sys2Proof

/-- The four error-correction levels, in the order of their ordinals 0 to 3 (R5, R27). -/
inductive Level where
  | L | M | Q | H
deriving DecidableEq, Repr

/-- The character classes of payload bytes, which are also the segment types (R270, R278). -/
inductive CharClass where
  | N | A | B
deriving DecidableEq, Repr

/-- The two readings of what follows the last segment, the parameter PAD_FILL (R287). -/
inductive PadFill where
  | zero | iso
deriving DecidableEq, Repr

namespace Config

/-- The largest Reed-Solomon redundancy length (R5). -/
abbrev genMax : Nat := 30

/-- The width in bits of the solver's vector space (R5, R324). -/
abbrev vecWidth : Nat := 256

/-- The largest version (R5). -/
abbrev maxVersion : Nat := 40

/-- FREE VALUE (log entry 2). The draw PERM of R334: `draw n k` is the raw number that selects the k-th element of the
n-th permutation drawn since power-on. Any function of this type may be the unit's. -/
opaque draw : Nat → Nat → Nat

/-- FREE VALUE (log entry 5). The unit's RS_MAXLEN of R163: the largest supported message length per redundancy length. It
counts only where it is above the least value R163 requires. Any function of this type may be the unit's. -/
opaque rsMaxLen : Nat → Nat

/-- FREE VALUE (log entry 1). `unwrittenByte r a` is what buffer address `a` holds when nothing has written it since the
r-th reset event (R51, R453, U1). -/
opaque unwrittenByte : Nat → Nat → Byte

/-- FREE VALUE (log entry 1). `unwrittenBit r i` is what GRID bit `i` holds when nothing has written it since the r-th
reset event (R51). -/
opaque unwrittenBit : Nat → Nat → Bool

end Config

end Sys2Proof
end

