-- ==== Sys2Proof/Machine/State.lean ====
section
/-! DEFINITION. The state of the unit (spec/10_state.md), the host's actions (spec/20_memory.md R61) as the inputs that wait
for it, the state after reset (R50 to R53), and the reasons a step can stop. The read-only tables (R44) are pure functions
and not state; the solver's LinearSystem and all scratch buffers are empty between commands and not state (R46). -/

namespace Sys2Proof.Machine

/-- The register STATUS (index 1), by its three fields: FAULT `[7:0]`, FOP `[15:8]`, FINFO `[31:16]` (R23). -/
structure Status where
  fault : Byte
  fop : Byte
  finfo : Half
deriving DecidableEq, Repr

/-- No fault recorded: all three fields are 0 (R23). -/
def Status.clear : Status := ⟨0, 0, 0⟩

/-- The register CFG (index 8), by its fields: VER `[5:0]`, ECL `[9:8]`, MSK `[14:12]`, LAYV `[16]`, MSKV `[17]`,
GRIDV `[18]`; its other bits read 0 and hold nothing (R27). -/
structure Cfg where
  ver : BitVec 6
  ecl : Level
  msk : BitVec 3
  layv : Bool
  mskv : Bool
  gridv : Bool
deriving DecidableEq, Repr

/-- CFG = 0: no layout, no mask version, no grid (R50, R53). -/
def Cfg.reset : Cfg := ⟨0, .L, 0, false, false, false⟩

/-- The content of BUF: the bytes written since reset, by address, each address once and rising; an unlisted address holds
no value of its own (R51). `Memory.wf` (Machine/Ops.lean) is the form. -/
abbrev Memory := List Host.Cell

/-- What the outside does to the unit: the four host accesses (R61), `regWrite 0 w` being the issue of command `w` (R22),
and reset (R450). -/
inductive HostAction where
  | regRead (i : Fin 16)
  | regWrite (i : Fin 16) (v : Word)
  | memRead (a : BitVec 16)
  | memWrite (a : BitVec 16) (v : Byte)
  | reset
deriving DecidableEq, Repr

/-- What a host read returns: a 32-bit value from REG, a byte from BUF (R61). -/
inductive Reply where
  | reg (v : Word)
  | byte (v : Byte)
deriving DecidableEq, Repr

/-- The codes a fault is recorded with (R402); their numbers are `FaultCode.number` (Machine/Ops.lean). A recorded fault is
a next state of the machine, never a stop of the model. -/
inductive FaultCode where
  | illcmd | version | eclevel | mask | mode | charset | toobig | length | capacity | rsunsup | range
  | nolayout | nomask | nogrid | assert | label
deriving DecidableEq, Repr

/-- The state of the unit and of its host port. -/
structure State where
  /-- STATUS (R23). -/
  status : Status
  /-- R0 (R24). -/
  r0 : Word
  /-- R1 (R24). -/
  r1 : Word
  /-- R2 (R24). -/
  r2 : Word
  /-- LEN0 (R25). -/
  len0 : Half
  /-- LEN1 (R25). -/
  len1 : Half
  /-- BLEN (R26). -/
  blen : Half
  /-- CFG (R27). -/
  cfg : Cfg
  /-- BUF (R40). -/
  mem : Memory
  /-- GRID (R42): the bits written since reset, by bit index; they are always the first ones (log entry 8), and an index
  past the end holds no value of its own. -/
  grid : List Bool
  /-- The model's own (log entry 2): how many permutations SOLVEBLK has drawn. -/
  draws : Nat
  /-- The model's own (log entry 1): how many reset events there have been. -/
  resets : Nat
  /-- The model's own (log entry 3): the host's actions that have not been performed, first to be performed first. -/
  pending : List HostAction
  /-- The model's own (log entry 3): what the host's reads returned, oldest first. -/
  replies : List Reply
deriving DecidableEq, Repr

/-- Right after reset (R50, R51, R53): every register 0, no buffer byte and no GRID bit holding a value. -/
def State.reset : State where
  status := Status.clear
  r0 := 0
  r1 := 0
  r2 := 0
  len0 := 0
  len1 := 0
  blen := 0
  cfg := Cfg.reset
  mem := []
  grid := []
  draws := 0
  resets := 0
  pending := []
  replies := []

/-- Reasons the machine stops with a fault: there are none. A fault of the unit is recorded in STATUS and the unit goes on
(R401); it never hangs and has no stuck state (R471). -/
inductive Fault where
deriving DecidableEq, Repr

/-- Reasons an instruction has no meaning in the model. -/
inductive Refusal where
  /-- Raised by `exec` alone, for an instruction the model gives no meaning to; safe. No arm raises it: every command of
  the table has its meaning. -/
  | notModelled (mnemonic : String)
deriving DecidableEq, Repr

/-- The outcome of a step or of an instruction. -/
abbrev Result := Host.Outcome State Fault Refusal

end Sys2Proof.Machine
end

