-- ==== Sys2Proof/Machine/Ops.lean ====
section
/-! DEFINITION. The named operations over the unit's stores: the buffer space and its byte reads and writes
(spec/10_state.md R40, R51; spec/20_memory.md R60, R65, R73), GRID (R42), the result registers (R24), and taking a fault and
leaving it (spec/60_exceptions.md R404, R407). -/

namespace Sys2Proof.Machine

/-! The buffers of BUF (R40). -/

/-- The ten buffers (R40). -/
inductive Buffer where
  | pay | bits | data | eccw | msg | ecc | row | td | te | out
deriving DecidableEq, Repr

/-- The base address of a buffer (R40). -/
def Buffer.base : Buffer → Nat
  | .pay => 0x0000
  | .bits => 0x2000
  | .data => 0x3000
  | .eccw => 0x4000
  | .msg => 0x5000
  | .ecc => 0x5100
  | .row => 0x5200
  | .td => 0x5400
  | .te => 0x5800
  | .out => 0x5C00

/-- The size of a buffer in bytes (R40). -/
def Buffer.size : Buffer → Nat
  | .pay => 8192
  | .bits => 4096
  | .data => 4096
  | .eccw => 4096
  | .msg => 256
  | .ecc => 32
  | .row => 256
  | .td => 1024
  | .te => 256
  | .out => 1024

/-- The buffers in address order (R40). -/
def allBuffers : List Buffer := [.pay, .bits, .data, .eccw, .msg, .ecc, .row, .td, .te, .out]

/-- The address lies in a buffer; every other address of BUF is reserved (R40). -/
def mapped (a : Nat) : Bool := allBuffers.any fun b => b.base ≤ a && a < b.base + b.size

/-! The content of BUF. -/

/-- The byte an address holds, if something has written it since reset (R51). -/
def Memory.read? : Memory → Nat → Option Byte
  | [], _ => none
  | (b, w) :: m, a => if a = b then some w else Memory.read? m a

/-- One byte written, the listing kept in rising address order. -/
def Memory.write : Memory → Nat → Byte → Memory
  | [], a, v => [(a, v)]
  | (b, w) :: m, a, v =>
    if a < b then (a, v) :: (b, w) :: m
    else if a = b then (a, v) :: m
    else (b, w) :: Memory.write m a v

/-- Consecutive bytes written from an address on. -/
def Memory.writeBytes : Memory → Nat → List Byte → Memory
  | m, _, [] => m
  | m, a, v :: vs => Memory.writeBytes (Memory.write m a v) (a + 1) vs

/-- Addresses strictly rising, none below the bound. -/
def Memory.risingFrom : Nat → Memory → Bool
  | _, [] => true
  | lo, (a, _) :: m => lo ≤ a && Memory.risingFrom (a + 1) m

/-- The canonical form of BUF's content: addresses strictly rising, every one of them in a buffer (a reserved address
stores nothing, R65). An unlisted address holds no value, so no entry can repeat what it reads as. -/
def Memory.wf (m : Memory) : Bool := Memory.risingFrom 0 m && m.all fun c => mapped c.1

/-- The byte a command or the host reads at a buffer address: the byte written last, or the free value of an address
that nothing has written since reset (R51, R453, U1; log entry 1). -/
def readByte (s : State) (a : Nat) : Byte := (s.mem.read? a).getD (Config.unwrittenByte s.resets a)

/-- The first `n` bytes of a buffer, `BUF[base .. base + n - 1]` (R12). -/
def readBuf (b : Buffer) (n : Nat) (s : State) : List Byte :=
  (List.range n).map fun i => readByte s (b.base + i)

/-- The bytes written to a buffer from an offset on; every other byte keeps its value (R73). -/
def writeBuf (b : Buffer) (offset : Nat) (vs : List Byte) (s : State) : State :=
  { s with mem := s.mem.writeBytes (b.base + offset) vs }

/-! GRID (R42). -/

/-- GRID bit `i`: the bit written last, or the free value of a bit that nothing has written since reset (R51; log
entry 1). -/
def gridBit (s : State) (i : Nat) : Bool := (s.grid[i]?).getD (Config.unwrittenBit s.resets i)

/-- The first bits of GRID written; the bits past them keep their values (R42, R73). -/
def writeGrid (bits : List Bool) (s : State) : State :=
  { s with grid := bits ++ s.grid.drop bits.length }

/-! The result registers (R24). -/

/-- `R0 <- zext_32(n)`. -/
def setR0 (n : Nat) (s : State) : State := { s with r0 := word n }

/-- `R0 <- n0; R1 <- n1; R2 <- n2`. -/
def setR012 (n0 n1 n2 : Nat) (s : State) : State := { s with r0 := word n0, r1 := word n1, r2 := word n2 }

/-! Faults (R400 to R408). -/

/-- The number a fault is recorded with (R402). -/
def FaultCode.number : FaultCode → Byte
  | .illcmd => 0x01
  | .version => 0x02
  | .eclevel => 0x03
  | .mask => 0x04
  | .mode => 0x05
  | .charset => 0x06
  | .toobig => 0x07
  | .length => 0x08
  | .capacity => 0x09
  | .rsunsup => 0x0A
  | .range => 0x0B
  | .nolayout => 0x0C
  | .nomask => 0x0D
  | .nogrid => 0x0E
  | .assert => 0x0F
  | .label => 0x10

/-- Taking a fault, the whole effect of the command that raises it: FAULT, FOP and FINFO are written and nothing else
changes (R404). `op` is the opcode byte of the command word. -/
def raise (op : Byte) (code : FaultCode) (info : Nat) (s : State) : State :=
  { s with status := ⟨code.number, op, BitVec.ofNat 16 info⟩ }

/-- The next state of a command that raises a fault (R404). -/
def takeFault (op : Byte) (code : FaultCode) (info : Nat) (s : State) : Result := .next (raise op code info s)

/-- Leaving a fault: `STATUS <- 0` (R122, R407). -/
def clearFault (s : State) : State := { s with status := Status.clear }

end Sys2Proof.Machine
end

