-- ==== Sys2Proof/Machine/Flags.lean ====
section
/-! DEFINITION. The flag-like state of the unit (spec/10_state.md R28): the recorded fault of STATUS and the fields and
valid bits of CFG, each written here and nowhere else, and the register images of both (R23, R27). There are no condition
codes. -/

namespace Sys2Proof.Machine

/-- The ordinal of a level: 0 L, 1 M, 2 Q, 3 H (R27). -/
def levelOrdinal : Level → BitVec 2
  | .L => 0
  | .M => 1
  | .Q => 2
  | .H => 3

/-- STATUS as the 32-bit register (R23). -/
def Status.word (t : Status) : Word := t.finfo ++ t.fop ++ t.fault

/-- CFG as the 32-bit register: bits 7:6, 11:10, 15 and 31:19 read 0 (R27). -/
def Cfg.word (c : Cfg) : Word :=
  (0 : BitVec 13) ++ BitVec.ofBool c.gridv ++ BitVec.ofBool c.mskv ++ BitVec.ofBool c.layv ++ (0 : BitVec 1) ++ c.msk
    ++ (0 : BitVec 2) ++ levelOrdinal c.ecl ++ (0 : BitVec 2) ++ c.ver

/-- A fault is recorded: `STATUS.FAULT != 0` (R120, R401). -/
def faultRecorded (s : State) : Bool := s.status.fault != 0

/-- `CFG.VER <- v; CFG.ECL <- l; CFG.LAYV <- 1; CFG.GRIDV <- 0` (R220). -/
def selectLayout (version : Nat) (l : Level) (s : State) : State :=
  { s with cfg := { s.cfg with ver := BitVec.ofNat 6 version, ecl := l, layv := true, gridv := false } }

/-- `CFG.MSK <- m; CFG.MSKV <- 1` (R221). -/
def selectMask (m : Nat) (s : State) : State :=
  { s with cfg := { s.cfg with msk := BitVec.ofNat 3 m, mskv := true } }

/-- `CFG.GRIDV <- 1` (R371, R372). -/
def markGrid (s : State) : State := { s with cfg := { s.cfg with gridv := true } }

/-- The version of the current layout, `CFG.VER` (R27). -/
def curVersion (s : State) : Nat := s.cfg.ver.toNat

/-- The selected mask version, `CFG.MSK` (R27). -/
def curMask (s : State) : Nat := s.cfg.msk.toNat

end Sys2Proof.Machine
end

