-- ==== Sys2Proof/Machine/Operands.lean ====
section
/-! DEFINITION. What an operand field or a label byte stands for: the level and mode codes (spec/30_encoding.md R94) and
the two fields of a label (spec/10_state.md R43). -/

namespace Sys2Proof.Machine

/-- The level of an ordinal operand, none above 3 (R27, R94). -/
def levelOf? : Nat → Option Level
  | 0 => some .L
  | 1 => some .M
  | 2 => some .Q
  | 3 => some .H
  | _ => none

/-- The four encoding modes (R94). -/
inductive Mode where
  | auto | fixed (t : CharClass)
deriving DecidableEq, Repr

/-- The mode of a mode code: 0 Auto, 1 Numeric, 2 Alphanumeric, 3 Byte; none above 3 (R94). -/
def modeOf? : Nat → Option Mode
  | 0 => some .auto
  | 1 => some (.fixed .N)
  | 2 => some (.fixed .A)
  | 3 => some (.fixed .B)
  | _ => none

/-- A label: its kind (in TD `true` is Free and `false` Fixed, in TE `true` is Target and `false` unconstrained) and its
value (R43). -/
structure Label where
  kind : Bool
  value : Bool
deriving DecidableEq, Repr

/-- Bits 7:2 of a label byte are 0 (R43, R322). -/
def labelLegal (b : Byte) : Bool := b >>> 2 == 0

/-- Bit 0 is the value, bit 1 the kind (R43). -/
def labelOf (b : Byte) : Label := ⟨b.getLsbD 1, b.getLsbD 0⟩

/-- The index of the first label byte that is not legal (R322). -/
def firstBadLabel (labels : List Byte) : Option Nat := labels.findIdx? fun b => !labelLegal b

/-- FINFO of E_RSUNSUP: `length or (eccLen << 8)` (R402). -/
def pairInfo (length eccLen : Nat) : Nat := length ||| eccLen <<< 8

end Sys2Proof.Machine
end

