-- ==== Sys2Proof/Machine/Tables.lean ====
section
/-! DEFINITION. The values of the configuration parameters (spec/00_scope.md R6, R7): the polynomial and the primitive
element, the block and alignment tables (spec/44_qr_tables.md), the supported Reed-Solomon pairs, the mask predicates, the
format and version codes and cell positions (spec/43_layout.md), the alphabet, mode indicators and length-field widths
(spec/45_data_encoder.md). Every one is printed by the spec, most of them from general knowledge (log entries 5, 6, 7). -/

namespace Sys2Proof.Machine

/-! The field (R130, R131). -/

/-- `POLY = 0x11D`, x^8 + x^4 + x^3 + x^2 + 1 (R5, R130). -/
def poly : Nat := 0x11D

/-- `ALPHA = 0x02`, the element x (R131). -/
def alpha : Byte := 0x02

/-! BLOCK_TABLE (R251). -/

/-- The four numbers of a version and level (R251). -/
structure BlockRow where
  eccLen : Nat
  blocks1 : Nat
  len1 : Nat
  blocks2 : Nat
deriving DecidableEq, Repr

/-- The row of a version: `total` and the numbers of its four levels (R251). -/
structure VersionRow where
  total : Nat
  rowL : BlockRow
  rowM : BlockRow
  rowQ : BlockRow
  rowH : BlockRow
deriving DecidableEq, Repr

/-- Versions 1 to 10 (R251). -/
def blockRows1 : List VersionRow :=
  [⟨26, ⟨7, 1, 19, 0⟩, ⟨10, 1, 16, 0⟩, ⟨13, 1, 13, 0⟩, ⟨17, 1, 9, 0⟩⟩,
   ⟨44, ⟨10, 1, 34, 0⟩, ⟨16, 1, 28, 0⟩, ⟨22, 1, 22, 0⟩, ⟨28, 1, 16, 0⟩⟩,
   ⟨70, ⟨15, 1, 55, 0⟩, ⟨26, 1, 44, 0⟩, ⟨18, 2, 17, 0⟩, ⟨22, 2, 13, 0⟩⟩,
   ⟨100, ⟨20, 1, 80, 0⟩, ⟨18, 2, 32, 0⟩, ⟨26, 2, 24, 0⟩, ⟨16, 4, 9, 0⟩⟩,
   ⟨134, ⟨26, 1, 108, 0⟩, ⟨24, 2, 43, 0⟩, ⟨18, 2, 15, 2⟩, ⟨22, 2, 11, 2⟩⟩,
   ⟨172, ⟨18, 2, 68, 0⟩, ⟨16, 4, 27, 0⟩, ⟨24, 4, 19, 0⟩, ⟨28, 4, 15, 0⟩⟩,
   ⟨196, ⟨20, 2, 78, 0⟩, ⟨18, 4, 31, 0⟩, ⟨18, 2, 14, 4⟩, ⟨26, 4, 13, 1⟩⟩,
   ⟨242, ⟨24, 2, 97, 0⟩, ⟨22, 2, 38, 2⟩, ⟨22, 4, 18, 2⟩, ⟨26, 4, 14, 2⟩⟩,
   ⟨292, ⟨30, 2, 116, 0⟩, ⟨22, 3, 36, 2⟩, ⟨20, 4, 16, 4⟩, ⟨24, 4, 12, 4⟩⟩,
   ⟨346, ⟨18, 2, 68, 2⟩, ⟨26, 4, 43, 1⟩, ⟨24, 6, 19, 2⟩, ⟨28, 6, 15, 2⟩⟩]

/-- Versions 11 to 20 (R251). -/
def blockRows2 : List VersionRow :=
  [⟨404, ⟨20, 4, 81, 0⟩, ⟨30, 1, 50, 4⟩, ⟨28, 4, 22, 4⟩, ⟨24, 3, 12, 8⟩⟩,
   ⟨466, ⟨24, 2, 92, 2⟩, ⟨22, 6, 36, 2⟩, ⟨26, 4, 20, 6⟩, ⟨28, 7, 14, 4⟩⟩,
   ⟨532, ⟨26, 4, 107, 0⟩, ⟨22, 8, 37, 1⟩, ⟨24, 8, 20, 4⟩, ⟨22, 12, 11, 4⟩⟩,
   ⟨581, ⟨30, 3, 115, 1⟩, ⟨24, 4, 40, 5⟩, ⟨20, 11, 16, 5⟩, ⟨24, 11, 12, 5⟩⟩,
   ⟨655, ⟨22, 5, 87, 1⟩, ⟨24, 5, 41, 5⟩, ⟨30, 5, 24, 7⟩, ⟨24, 11, 12, 7⟩⟩,
   ⟨733, ⟨24, 5, 98, 1⟩, ⟨28, 7, 45, 3⟩, ⟨24, 15, 19, 2⟩, ⟨30, 3, 15, 13⟩⟩,
   ⟨815, ⟨28, 1, 107, 5⟩, ⟨28, 10, 46, 1⟩, ⟨28, 1, 22, 15⟩, ⟨28, 2, 14, 17⟩⟩,
   ⟨901, ⟨30, 5, 120, 1⟩, ⟨26, 9, 43, 4⟩, ⟨28, 17, 22, 1⟩, ⟨28, 2, 14, 19⟩⟩,
   ⟨991, ⟨28, 3, 113, 4⟩, ⟨26, 3, 44, 11⟩, ⟨26, 17, 21, 4⟩, ⟨26, 9, 13, 16⟩⟩,
   ⟨1085, ⟨28, 3, 107, 5⟩, ⟨26, 3, 41, 13⟩, ⟨30, 15, 24, 5⟩, ⟨28, 15, 15, 10⟩⟩]

/-- Versions 21 to 30 (R251). -/
def blockRows3 : List VersionRow :=
  [⟨1156, ⟨28, 4, 116, 4⟩, ⟨26, 17, 42, 0⟩, ⟨28, 17, 22, 6⟩, ⟨30, 19, 16, 6⟩⟩,
   ⟨1258, ⟨28, 2, 111, 7⟩, ⟨28, 17, 46, 0⟩, ⟨30, 7, 24, 16⟩, ⟨24, 34, 13, 0⟩⟩,
   ⟨1364, ⟨30, 4, 121, 5⟩, ⟨28, 4, 47, 14⟩, ⟨30, 11, 24, 14⟩, ⟨30, 16, 15, 14⟩⟩,
   ⟨1474, ⟨30, 6, 117, 4⟩, ⟨28, 6, 45, 14⟩, ⟨30, 11, 24, 16⟩, ⟨30, 30, 16, 2⟩⟩,
   ⟨1588, ⟨26, 8, 106, 4⟩, ⟨28, 8, 47, 13⟩, ⟨30, 7, 24, 22⟩, ⟨30, 22, 15, 13⟩⟩,
   ⟨1706, ⟨28, 10, 114, 2⟩, ⟨28, 19, 46, 4⟩, ⟨28, 28, 22, 6⟩, ⟨30, 33, 16, 4⟩⟩,
   ⟨1828, ⟨30, 8, 122, 4⟩, ⟨28, 22, 45, 3⟩, ⟨30, 8, 23, 26⟩, ⟨30, 12, 15, 28⟩⟩,
   ⟨1921, ⟨30, 3, 117, 10⟩, ⟨28, 3, 45, 23⟩, ⟨30, 4, 24, 31⟩, ⟨30, 11, 15, 31⟩⟩,
   ⟨2051, ⟨30, 7, 116, 7⟩, ⟨28, 21, 45, 7⟩, ⟨30, 1, 23, 37⟩, ⟨30, 19, 15, 26⟩⟩,
   ⟨2185, ⟨30, 5, 115, 10⟩, ⟨28, 19, 47, 10⟩, ⟨30, 15, 24, 25⟩, ⟨30, 23, 15, 25⟩⟩]

/-- Versions 31 to 40 (R251). -/
def blockRows4 : List VersionRow :=
  [⟨2323, ⟨30, 13, 115, 3⟩, ⟨28, 2, 46, 29⟩, ⟨30, 42, 24, 1⟩, ⟨30, 23, 15, 28⟩⟩,
   ⟨2465, ⟨30, 17, 115, 0⟩, ⟨28, 10, 46, 23⟩, ⟨30, 10, 24, 35⟩, ⟨30, 19, 15, 35⟩⟩,
   ⟨2611, ⟨30, 17, 115, 1⟩, ⟨28, 14, 46, 21⟩, ⟨30, 29, 24, 19⟩, ⟨30, 11, 15, 46⟩⟩,
   ⟨2761, ⟨30, 13, 115, 6⟩, ⟨28, 14, 46, 23⟩, ⟨30, 44, 24, 7⟩, ⟨30, 59, 16, 1⟩⟩,
   ⟨2876, ⟨30, 12, 121, 7⟩, ⟨28, 12, 47, 26⟩, ⟨30, 39, 24, 14⟩, ⟨30, 22, 15, 41⟩⟩,
   ⟨3034, ⟨30, 6, 121, 14⟩, ⟨28, 6, 47, 34⟩, ⟨30, 46, 24, 10⟩, ⟨30, 2, 15, 64⟩⟩,
   ⟨3196, ⟨30, 17, 122, 4⟩, ⟨28, 29, 46, 14⟩, ⟨30, 49, 24, 10⟩, ⟨30, 24, 15, 46⟩⟩,
   ⟨3362, ⟨30, 4, 122, 18⟩, ⟨28, 13, 46, 32⟩, ⟨30, 48, 24, 14⟩, ⟨30, 42, 15, 32⟩⟩,
   ⟨3532, ⟨30, 20, 117, 4⟩, ⟨28, 40, 47, 7⟩, ⟨30, 43, 24, 22⟩, ⟨30, 10, 15, 67⟩⟩,
   ⟨3706, ⟨30, 19, 118, 6⟩, ⟨28, 18, 47, 31⟩, ⟨30, 34, 24, 34⟩, ⟨30, 20, 15, 61⟩⟩]

/-- BLOCK_TABLE, version 1 first (R251). -/
def blockTable : List VersionRow := blockRows1 ++ blockRows2 ++ blockRows3 ++ blockRows4

/-- The row of a version that has none: zeros (log entry 9; no reachable state has such a version). -/
def noVersionRow : VersionRow := ⟨0, ⟨0, 0, 0, 0⟩, ⟨0, 0, 0, 0⟩, ⟨0, 0, 0, 0⟩, ⟨0, 0, 0, 0⟩⟩

/-! ALIGN_TABLE (R253). -/

/-- Versions 1 to 10 (R253). -/
def alignRows1 : List (List Nat) :=
  [[],
   [6, 18],
   [6, 22],
   [6, 26],
   [6, 30],
   [6, 34],
   [6, 22, 38],
   [6, 24, 42],
   [6, 26, 46],
   [6, 28, 50]]

/-- Versions 11 to 20 (R253). -/
def alignRows2 : List (List Nat) :=
  [[6, 30, 54],
   [6, 32, 58],
   [6, 34, 62],
   [6, 26, 46, 66],
   [6, 26, 48, 70],
   [6, 26, 50, 74],
   [6, 30, 54, 78],
   [6, 30, 56, 82],
   [6, 30, 58, 86],
   [6, 34, 62, 90]]

/-- Versions 21 to 30 (R253). -/
def alignRows3 : List (List Nat) :=
  [[6, 28, 50, 72, 94],
   [6, 26, 50, 74, 98],
   [6, 30, 54, 78, 102],
   [6, 28, 54, 80, 106],
   [6, 32, 58, 84, 110],
   [6, 30, 58, 86, 114],
   [6, 34, 62, 90, 118],
   [6, 26, 50, 74, 98, 122],
   [6, 30, 54, 78, 102, 126],
   [6, 26, 52, 78, 104, 130]]

/-- Versions 31 to 40 (R253). -/
def alignRows4 : List (List Nat) :=
  [[6, 30, 56, 82, 108, 134],
   [6, 34, 60, 86, 112, 138],
   [6, 30, 58, 86, 114, 142],
   [6, 34, 62, 90, 118, 146],
   [6, 30, 54, 78, 102, 126, 150],
   [6, 24, 50, 76, 102, 128, 154],
   [6, 28, 54, 80, 106, 132, 158],
   [6, 32, 58, 84, 110, 136, 162],
   [6, 26, 54, 82, 110, 138, 166],
   [6, 30, 58, 86, 114, 142, 170]]

/-- ALIGN_TABLE, version 1 first (R253). -/
def alignTable : List (List Nat) := alignRows1 ++ alignRows2 ++ alignRows3 ++ alignRows4

/-! The two tables as one argument (R47, R250). -/

/-- BLOCK_TABLE and ALIGN_TABLE, version 1 first: an argument of everything that depends on a table (R6, R47, R250). -/
structure QrTables where
  block : List VersionRow
  align : List (List Nat)
deriving DecidableEq, Repr

/-- The tables of the unit specified here, the values R251 and R253 print (R250). Every use of a table that names none means
these. -/
def printedTables : QrTables := ⟨blockTable, alignTable⟩

/-- The row of a version (R251). -/
def versionRow (v : Nat) (q : QrTables := printedTables) : VersionRow :=
  if v = 0 then noVersionRow else (q.block[v - 1]?).getD noVersionRow

/-- `BLOCK_TABLE[version][level]` (R251). -/
def blockRow (v : Nat) (l : Level) (q : QrTables := printedTables) : BlockRow :=
  match l with
  | .L => (versionRow v q).rowL
  | .M => (versionRow v q).rowM
  | .Q => (versionRow v q).rowQ
  | .H => (versionRow v q).rowH

/-- `ALIGN_TABLE[version]` (R253). -/
def alignCoords (v : Nat) (q : QrTables := printedTables) : List Nat := if v = 0 then [] else (q.align[v - 1]?).getD []

/-! The Reed-Solomon codec (R163). -/

/-- The largest data-block length of a row, when the row's redundancy length is e; 0 else (R163). -/
def blockLenPaired (e : Nat) (r : BlockRow) : Nat :=
  if r.eccLen = e then (if r.blocks2 > 0 then r.len1 + 1 else r.len1) else 0

/-- The least `RS_MAXLEN[e]` that R163 allows: the largest data-block length that BLOCK_TABLE pairs with e, 0 where it pairs
none. With the printed table it is also the value R163 recommends. -/
def leastMaxLen (e : Nat) (q : QrTables := printedTables) : Nat :=
  q.block.foldl (fun n row => max n (max (max (blockLenPaired e row.rowL) (blockLenPaired e row.rowM))
    (max (blockLenPaired e row.rowQ) (blockLenPaired e row.rowH)))) 0

/-- `RS_MAXLEN[e]` of a unit whose own choice is `chosen`: never below the least value (R7, R163; log entry 5). -/
def rsMaxLen (chosen : Nat → Nat) (e : Nat) (q : QrTables := printedTables) : Nat := max (leastMaxLen e q) (chosen e)

/-- `(n, e)` is a supported pair, `n <= RS_MAXLEN[e]` asked of the least value first, so that a pair of the block table is
seen to be supported whatever the choice (R163). -/
def rsSupported (chosen : Nat → Nat) (n e : Nat) (q : QrTables := printedTables) : Bool :=
  1 ≤ e && e ≤ Config.genMax && 1 ≤ n && (n ≤ leastMaxLen e q || n ≤ chosen e)

/-! Masks (R213). -/

/-- `MASK_PRED(m, x, y)`, x the column and y the row (R213). -/
def maskPred (m x y : Nat) : Bool :=
  match m with
  | 0 => (x + y) % 2 == 0
  | 1 => y % 2 == 0
  | 2 => x % 3 == 0
  | 3 => (x + y) % 3 == 0
  | 4 => (y / 2 + x / 3) % 2 == 0
  | 5 => x * y % 2 + x * y % 3 == 0
  | 6 => (x * y % 2 + x * y % 3) % 2 == 0
  | 7 => ((x + y) % 2 + x * y % 3) % 2 == 0
  | _ => false

/-! Format and version information (R204, R205, R216, R218). -/

/-- FMT_GEN (R216). -/
def fmtGen : Nat := 0x537

/-- FMT_XOR (R216). -/
def fmtXor : Nat := 0x5412

/-- FMT_LEVEL (R216). -/
def fmtLevel : Level → Nat
  | .L => 1
  | .M => 0
  | .Q => 3
  | .H => 2

/-- VER_GEN (R218). -/
def verGen : Nat := 0x1F25

/-- The cell `(x, y)` of bit `i` of the format word, copy 0 (R204). -/
def fmtPos0 (i : Nat) : Nat × Nat :=
  if i ≤ 5 then (8, i)
  else if i = 6 then (8, 7)
  else if i = 7 then (8, 8)
  else if i = 8 then (7, 8)
  else (14 - i, 8)

/-- The cell of bit `i` of the format word, copy 1, in a grid of the given side (R204). -/
def fmtPos1 (side i : Nat) : Nat × Nat :=
  if i ≤ 5 then (side - 1 - i, 8)
  else if i = 6 then (side - 7, 8)
  else if i = 7 then (side - 8, 8)
  else if i = 8 then (8, side - 7)
  else (8, side - 15 + i)

/-- The cell of bit `i` of the version word, copy 0 (R205). -/
def verPos0 (side i : Nat) : Nat × Nat := (side - 11 + i % 3, i / 3)

/-- The cell of bit `i` of the version word, copy 1 (R205). -/
def verPos1 (side i : Nat) : Nat × Nat := (i / 3, side - 11 + i % 3)

/-! The data encoder (R271, R275, R276, R287). -/

/-- The ASCII codes of ALNUM_TABLE in value order: digits, capital letters, then space $ % * + - . / : (R271). -/
def alnumCodes : List Nat :=
  (List.range 10).map (0x30 + ·) ++ (List.range 26).map (0x41 + ·)
    ++ [0x20, 0x24, 0x25, 0x2A, 0x2B, 0x2D, 0x2E, 0x2F, 0x3A]

/-- MODE_IND (R275). -/
def modeInd : CharClass → Nat
  | .N => 1
  | .A => 2
  | .B => 4

/-- COUNT_WIDTH, by type and tier (R276). -/
def countWidth : CharClass → Nat → Nat
  | .N, 0 => 10
  | .N, 1 => 12
  | .N, _ => 14
  | .A, 0 => 9
  | .A, 1 => 11
  | .A, _ => 13
  | .B, 0 => 8
  | .B, _ => 16

/-- PAD_FILL, the value of the unit specified here (R287; log entry 6). -/
def padFill : PadFill := .zero

end Sys2Proof.Machine
end

