-- ==== Sys2Proof/Machine/Layout.lean ====
section
/-! DEFINITION. SymbolLayout: block structure, the interleaved codeword stream, the classification of every cell, the mask
arrays, the format and version words, and the commands LAYOUT, SETMASK, CELL, MASKBIT, FMTINFO, VERINFO, BLKINFO, CAPINFO
(spec/43_layout.md). A layout is a pure function of version and level (R190)
and of the two tables (R250), which are the last argument of everything here that depends on them, the printed ones where it
is not named; it is computed cell by cell, the construction
steps of R196 in their order of precedence (log entry 10). -/

namespace Sys2Proof.Machine

/-! Block structure (R191, R192). -/

/-- `side = 4*version + 17` (R191). -/
def side (v : Nat) : Nat := 4 * v + 17

/-- The number of blocks (R192). -/
def nblocks (r : BlockRow) : Nat := r.blocks1 + r.blocks2

/-- The number of data codewords of block k (R192). -/
def dataLen (r : BlockRow) (k : Nat) : Nat := if k < r.blocks1 then r.len1 else r.len1 + 1

/-- The index in DATA of block k's first data codeword (R192). -/
def dataOff (r : BlockRow) : Nat → Nat
  | 0 => 0
  | k + 1 => dataOff r k + dataLen r k

/-- The data capacity in codewords (R192). -/
def dataTotal (r : BlockRow) : Nat := r.blocks1 * r.len1 + r.blocks2 * (r.len1 + 1)

/-- The number of ecc codewords (R192). -/
def eccTotal (r : BlockRow) : Nat := nblocks r * r.eccLen

/-- The number of codewords of the symbol (R192). -/
def totalCodewords (r : BlockRow) : Nat := dataTotal r + eccTotal r

/-! The interleaved codeword stream (R195). -/

/-- The kind of a codeword (R195). -/
inductive CwKind where
  | data | ecc
deriving DecidableEq, Repr

/-- An entry `(kind, k, i)` of the stream: byte i of block k's data or ecc codewords (R195). -/
structure CwEntry where
  kind : CwKind
  block : Nat
  index : Nat
deriving DecidableEq, Repr

/-- `CW[0 .. totalCodewords-1]`: the data codewords column by column, then the ecc codewords column by column (R195). -/
def cwStream (r : BlockRow) : List CwEntry :=
  ((List.range (r.len1 + 1)).flatMap fun i =>
    ((List.range (nblocks r)).filter fun k => i < dataLen r k).map fun k => ⟨.data, k, i⟩)
  ++ (List.range r.eccLen).flatMap fun i => (List.range (nblocks r)).map fun k => ⟨.ecc, k, i⟩

/-! Cells (R193, R194). -/

/-- What a layout records of a cell: its type, with the module value of a fixed pattern, the bit index and copy number of
an information cell, the codeword address of a Data or Ecc cell (R190, R193, R194). -/
inductive Cell where
  | finderPattern (value : Bool)
  | separator (value : Bool)
  | timingPattern (value : Bool)
  | alignmentPattern (value : Bool)
  | otherFixed (value : Bool)
  | formatInfo (bit copy : Nat)
  | versionInfo (bit copy : Nat)
  | data (cw bit block index : Nat)
  | ecc (cw bit block index : Nat)
  | padding
  | unassigned
deriving DecidableEq, Repr

/-- The distance of two coordinates. -/
def coordDist (a b : Nat) : Nat := (a - b) + (b - a)

/-- `max(|dx|, |dy|)`, the ring a cell lies on around a centre. -/
def ring (cx cy x y : Nat) : Nat := max (coordDist x cx) (coordDist y cy)

/-- The centres of the three finder patterns, whose top-left cells are (0, 0), (side-7, 0) and (0, side-7) (R197). -/
def finderCentres (sd : Nat) : List (Nat × Nat) := [(3, 3), (sd - 4, 3), (3, sd - 4)]

/-- A finder cell: rings 0 to 3 of a centre, light on ring 2 (R197). -/
def finderCell (sd x y : Nat) : Option Cell :=
  ((finderCentres sd).find? fun c => ring c.1 c.2 x y ≤ 3).map fun c => .finderPattern (ring c.1 c.2 x y != 2)

/-- A separator cell: ring 4 of a finder centre (R198). -/
def separatorCell (sd x y : Nat) : Option Cell :=
  if (finderCentres sd).any fun c => ring c.1 c.2 x y == 4 then some (.separator false) else none

/-- The centres of the alignment patterns: all pairs of ALIGN_TABLE coordinates but the three that meet a finder (R199). -/
def alignCentres (v : Nat) (q : QrTables := printedTables) : List (Nat × Nat) :=
  ((alignCoords v q).flatMap fun cx => (alignCoords v q).map fun cy => (cx, cy)).filter fun c =>
    c != (6, 6) && c != (side v - 7, 6) && c != (6, side v - 7)

/-- An alignment cell: rings 0 to 2 of a centre, light on ring 1 (R199). -/
def alignmentCell (v x y : Nat) (q : QrTables := printedTables) : Option Cell :=
  ((alignCentres v q).find? fun c => ring c.1 c.2 x y ≤ 2).map fun c => .alignmentPattern (ring c.1 c.2 x y != 1)

/-- A timing cell: row 6 and column 6, dark at the even places (R200). -/
def timingCell (x y : Nat) : Option Cell :=
  if y = 6 then some (.timingPattern (x % 2 == 0))
  else if x = 6 then some (.timingPattern (y % 2 == 0))
  else none

/-- The dark module (R201). -/
def darkCell (sd x y : Nat) : Option Cell := if x = 8 ∧ y = sd - 8 then some (.otherFixed true) else none

/-- A format information cell, copy 0 or copy 1 (R202, R204). -/
def formatCell (sd x y : Nat) : Option Cell :=
  match (List.range 15).find? fun i => fmtPos0 i == (x, y) with
  | some i => some (.formatInfo i 0)
  | none => ((List.range 15).find? fun i => fmtPos1 sd i == (x, y)).map fun i => .formatInfo i 1

/-- A version information cell, for version 7 and above (R202, R205). -/
def versionCell (v x y : Nat) : Option Cell :=
  if v < 7 then none
  else
    match (List.range 18).find? fun i => verPos0 (side v) i == (x, y) with
    | some i => some (.versionInfo i 0)
    | none => ((List.range 18).find? fun i => verPos1 (side v) i == (x, y)).map fun i => .versionInfo i 1

/-- The cells assigned before the data walk, the earlier step of the construction first (R196). -/
def functionCell (v x y : Nat) (q : QrTables := printedTables) : Option Cell :=
  finderCell (side v) x y <|> separatorCell (side v) x y <|> alignmentCell v x y q <|> timingCell x y
    <|> darkCell (side v) x y <|> formatCell (side v) x y <|> versionCell v x y

/-! The data walk (R206). -/

/-- The strips of the walk: the right column of each and whether it is walked upward; `fuel` bounds their number. -/
def stripsFrom : Nat → Nat → Bool → List (Nat × Bool)
  | 0, _, _ => []
  | fuel + 1, right, up =>
    if right < 1 then []
    else
      let r := if right = 6 then 5 else right
      (r, up) :: stripsFrom fuel (r - 2) (!up)

/-- The cells of one strip in walking order: row by row, the right cell before the left (R206). -/
def stripCells (sd : Nat) (strip : Nat × Bool) : List (Nat × Nat) :=
  (if strip.2 then (List.range sd).reverse else List.range sd).flatMap fun y => [(strip.1, y), (strip.1 - 1, y)]

/-- The cells the walk assigns, in order: those no earlier step has assigned (R206). -/
def walk (v : Nat) (q : QrTables := printedTables) : List (Nat × Nat) :=
  ((stripsFrom (side v) (side v - 1) true).flatMap (stripCells (side v))).filter fun c => (functionCell v c.1 c.2 q).isNone

/-- The n-th cell of the walk gets bit `7 - (n mod 8)` of codeword `CW[n div 8]`; the cells past the last codeword are
Padding (R206, R207). `stream` is CW. -/
def walkedCell (stream : List CwEntry) (n : Nat) : Cell :=
  match stream[n / 8]? with
  | some ⟨.data, k, i⟩ => .data (n / 8) (7 - n % 8) k i
  | some ⟨.ecc, k, i⟩ => .ecc (n / 8) (7 - n % 8) k i
  | none => .padding

/-- The cell `(x, y)` of version `v`, given the walk and the codeword stream of the layout. -/
def cellWith (cells : List (Nat × Nat)) (stream : List CwEntry) (v x y : Nat) (q : QrTables := printedTables) : Cell :=
  match functionCell v x y q with
  | some c => c
  | none =>
    match cells.findIdx? fun c => c == (x, y) with
    | some n => walkedCell stream n
    | none => .unassigned

/-- `LAYOUT(version, level)` at the cell `(x, y)` (R190). No cell inside the grid is left unassigned (R208). -/
def layoutCell (v : Nat) (l : Level) (x y : Nat) (q : QrTables := printedTables) : Cell :=
  cellWith (walk v q) (cwStream (blockRow v l q)) v x y q

/-- The cell that carries bit `bit` of byte `index` of block `block`, data or ecc (R194, R206, R323). -/
def cellOfBit (v : Nat) (l : Level) (e : CwEntry) (bit : Nat) (q : QrTables := printedTables) :
    Option (Nat × Nat) :=
  ((cwStream (blockRow v l q)).findIdx? fun c => c == e).bind fun n => (walk v q)[8 * n + (7 - bit)]?

/-- The code CELL returns for a type (R193). -/
def Cell.code : Cell → Nat
  | .finderPattern _ => 0
  | .separator _ => 1
  | .timingPattern _ => 2
  | .alignmentPattern _ => 3
  | .otherFixed _ => 4
  | .formatInfo _ _ => 5
  | .versionInfo _ _ => 6
  | .data _ _ _ _ => 7
  | .ecc _ _ _ _ => 8
  | .padding => 9
  | .unassigned => 10

/-- What CELL leaves in R1 (R222). -/
def Cell.r1 : Cell → Nat
  | .finderPattern value => value.toNat
  | .separator value => value.toNat
  | .timingPattern value => value.toNat
  | .alignmentPattern value => value.toNat
  | .otherFixed value => value.toNat
  | .formatInfo bit _ => bit
  | .versionInfo bit _ => bit
  | .data cw _ _ _ => cw
  | .ecc cw _ _ _ => cw
  | .padding => 0
  | .unassigned => 0

/-- What CELL leaves in R2 (R222). -/
def Cell.r2 : Cell → Nat
  | .finderPattern _ => 0
  | .separator _ => 0
  | .timingPattern _ => 0
  | .alignmentPattern _ => 0
  | .otherFixed _ => 0
  | .formatInfo _ copy => copy
  | .versionInfo _ copy => copy
  | .data _ bit block index => bit ||| block <<< 8 ||| index <<< 16
  | .ecc _ bit block index => bit ||| block <<< 8 ||| index <<< 16
  | .padding => 0
  | .unassigned => 0

/-! Masks (R212). -/

/-- The types a mask flips: Data, Ecc and Padding (R212). -/
def Cell.maskable : Cell → Bool
  | .data _ _ _ _ => true
  | .ecc _ _ _ _ => true
  | .padding => true
  | .finderPattern _ => false
  | .separator _ => false
  | .timingPattern _ => false
  | .alignmentPattern _ => false
  | .otherFixed _ => false
  | .formatInfo _ _ => false
  | .versionInfo _ _ => false
  | .unassigned => false

/-- `MASKARR(version, level, m)[y][x]` (R212). -/
def maskArr (v : Nat) (l : Level) (m x y : Nat) (q : QrTables := printedTables) : Bool :=
  (layoutCell v l x y q).maskable && maskPred m x y

/-! What a replacement table must meet (R250, R255). -/

/-- The cells of a grid, row by row (R10). -/
def gridCells (sd : Nat) : List (Nat × Nat) := (List.range sd).flatMap fun y => (List.range sd).map fun x => (x, y)

/-- A cell that carries a codeword bit (R194). -/
def Cell.carries : Cell → Bool
  | .data _ _ _ _ => true
  | .ecc _ _ _ _ => true
  | .finderPattern _ => false
  | .separator _ => false
  | .timingPattern _ => false
  | .alignmentPattern _ => false
  | .otherFixed _ => false
  | .formatInfo _ _ => false
  | .versionInfo _ _ => false
  | .padding => false
  | .unassigned => false

/-- What R255 asks of one row of BLOCK_TABLE: the bounds of its numbers, the supported block lengths, and that its codewords
fit the walk and its stores fit their buffers. -/
structure RowConsistent (chosen : Nat → Nat) (q : QrTables) (v : Nat) (l : Level) : Prop where
  ecc_len : 1 ≤ (blockRow v l q).eccLen ∧ (blockRow v l q).eccLen ≤ Config.genMax
  blocks : 1 ≤ (blockRow v l q).blocks1 ∧ 1 ≤ (blockRow v l q).len1
  supported : (if (blockRow v l q).blocks2 > 0 then (blockRow v l q).len1 + 1 else (blockRow v l q).len1)
    ≤ rsMaxLen chosen (blockRow v l q).eccLen q
  walk_holds : 8 * totalCodewords (blockRow v l q) ≤ (walk v q).length
  data_fits : dataTotal (blockRow v l q) ≤ 4096
  ecc_fits : eccTotal (blockRow v l q) ≤ 4096

/-- The consistency conditions of R255, under which the unit's behaviour is defined (R250): every row's, and the layout
invariants of R208, that no cell is left Unassigned and that the Data and Ecc cells are as many as the codeword bits. -/
structure QrTables.Consistent (chosen : Nat → Nat) (q : QrTables) : Prop where
  rows : ∀ v l, 1 ≤ v → v ≤ Config.maxVersion → RowConsistent chosen q v l
  assigned : ∀ v l x y, 1 ≤ v → v ≤ Config.maxVersion → x < side v → y < side v → layoutCell v l x y q ≠ .unassigned
  counted : ∀ v l, 1 ≤ v → v ≤ Config.maxVersion →
    ((gridCells (side v)).filter fun c => (layoutCell v l c.1 c.2 q).carries).length = 8 * totalCodewords (blockRow v l q)

/-! Format and version words (R216, R218). -/

/-- The remainder of `d * x^width` divided by the GF(2) polynomial `g` of degree `width`, by `steps` shifts (R216, R218). -/
def bchRemainder (g width : Nat) : Nat → Nat → Nat
  | 0, rem => rem
  | steps + 1, rem => bchRemainder g width steps (rem <<< 1 ^^^ (rem >>> (width - 1)) * g)

/-- `FMTWORD(level, m)` (R216). -/
def fmtWord (l : Level) (m : Nat) : Nat :=
  let d := fmtLevel l <<< 3 ||| m
  (d <<< 10 ||| bchRemainder fmtGen 10 10 d) ^^^ fmtXor

/-- `VERWORD(version)` (R218). -/
def verWord (v : Nat) : Nat := v <<< 12 ||| bchRemainder verGen 12 12 v

/-! The commands. The row of the current layout: -/

/-- `BLOCK_TABLE[CFG.VER][CFG.ECL]` (R192). -/
def curRow (s : State) (q : QrTables := printedTables) : BlockRow := blockRow (curVersion s) s.cfg.ecl q

/-- The side of the current layout (R191). -/
def curSide (s : State) : Nat := side (curVersion s)

/-- The cell of the current layout (R222). -/
def curCell (s : State) (x y : Nat) (q : QrTables := printedTables) : Cell :=
  layoutCell (curVersion s) s.cfg.ecl x y q

/-- LAYOUT version, ecLevel (R220). -/
def execLayout (version ecLevel : Nat) (s : State) : Result :=
  if version < 1 ∨ version > Config.maxVersion then takeFault opLayout .version version s
  else
    match levelOf? ecLevel with
    | none => takeFault opLayout .eclevel ecLevel s
    | some l => .next (selectLayout version l s)

/-- SETMASK maskVersion (R221). -/
def execSetmask (maskVersion : Nat) (s : State) : Result :=
  if maskVersion > 7 then takeFault opSetmask .mask maskVersion s
  else .next (selectMask maskVersion s)

/-- CELL x, y under the given tables (R222, R250). -/
def cellUnder (q : QrTables) (x y : Nat) (s : State) : Result :=
  if !s.cfg.layv then takeFault opCell .nolayout 0 s
  else if x ≥ curSide s then takeFault opCell .range x s
  else if y ≥ curSide s then takeFault opCell .range y s
  else .next (setR012 (curCell s x y q).code (curCell s x y q).r1 (curCell s x y q).r2 s)

/-- CELL x, y (R222). -/
def execCell (x y : Nat) (s : State) : Result := cellUnder printedTables x y s

/-- MASKBIT x, y under the given tables (R223, R250). -/
def maskbitUnder (q : QrTables) (x y : Nat) (s : State) : Result :=
  if !s.cfg.layv then takeFault opMaskbit .nolayout 0 s
  else if !s.cfg.mskv then takeFault opMaskbit .nomask 0 s
  else if x ≥ curSide s then takeFault opMaskbit .range x s
  else if y ≥ curSide s then takeFault opMaskbit .range y s
  else .next (setR0 (maskArr (curVersion s) s.cfg.ecl (curMask s) x y q).toNat s)

/-- MASKBIT x, y (R223). -/
def execMaskbit (x y : Nat) (s : State) : Result := maskbitUnder printedTables x y s

/-- FMTINFO (R224). -/
def execFmtinfo (s : State) : Result :=
  if !s.cfg.layv then takeFault opFmtinfo .nolayout 0 s
  else if !s.cfg.mskv then takeFault opFmtinfo .nomask 0 s
  else .next (setR0 (fmtWord s.cfg.ecl (curMask s)) s)

/-- VERINFO: 0 for versions 1 to 6 (R225). -/
def execVerinfo (s : State) : Result :=
  if !s.cfg.layv then takeFault opVerinfo .nolayout 0 s
  else .next (setR0 (if curVersion s ≥ 7 then verWord (curVersion s) else 0) s)

/-- BLKINFO k under the given tables (R226, R250). -/
def blkinfoUnder (q : QrTables) (k : Nat) (s : State) : Result :=
  if !s.cfg.layv then takeFault opBlkinfo .nolayout 0 s
  else if k ≥ nblocks (curRow s q) then takeFault opBlkinfo .range k s
  else .next (setR012 (dataLen (curRow s q) k) (curRow s q).eccLen (dataOff (curRow s q) k) s)

/-- BLKINFO k (R226). -/
def execBlkinfo (k : Nat) (s : State) : Result := blkinfoUnder printedTables k s

/-- CAPINFO under the given tables (R227, R250). -/
def capinfoUnder (q : QrTables) (s : State) : Result :=
  if !s.cfg.layv then takeFault opCapinfo .nolayout 0 s
  else .next (setR012 (nblocks (curRow s q)) (dataTotal (curRow s q)) (totalCodewords (curRow s q)) s)

/-- CAPINFO (R227). -/
def execCapinfo (s : State) : Result := capinfoUnder printedTables s

end Sys2Proof.Machine
end

