-- ==== Sys2Proof/Machine/Galois.lean ====
section
/-! DEFINITION. GaloisField256, its tables as pure functions, and the commands GFADD, GFMUL, GFEXP, GFLOG, GFROW, GFGEN
(spec/41_gf256.md). -/

namespace Sys2Proof.Machine

/-! The field (R130 to R137). -/

/-- `xtime`, multiplication by ALPHA = x modulo POLY, the recurrence behind the tables (R132). -/
def xtime (v : Byte) : Byte := v <<< 1 ^^^ (if v.getLsbD 7 then BitVec.ofNat 8 poly else 0)

/-- `EXP[16*r + c]` at row r, column c, as printed in R132: EXP[0..254]. -/
def expRows : List (List Nat) :=
  [[1, 2, 4, 8, 16, 32, 64, 128, 29, 58, 116, 232, 205, 135, 19, 38],
   [76, 152, 45, 90, 180, 117, 234, 201, 143, 3, 6, 12, 24, 48, 96, 192],
   [157, 39, 78, 156, 37, 74, 148, 53, 106, 212, 181, 119, 238, 193, 159, 35],
   [70, 140, 5, 10, 20, 40, 80, 160, 93, 186, 105, 210, 185, 111, 222, 161],
   [95, 190, 97, 194, 153, 47, 94, 188, 101, 202, 137, 15, 30, 60, 120, 240],
   [253, 231, 211, 187, 107, 214, 177, 127, 254, 225, 223, 163, 91, 182, 113, 226],
   [217, 175, 67, 134, 17, 34, 68, 136, 13, 26, 52, 104, 208, 189, 103, 206],
   [129, 31, 62, 124, 248, 237, 199, 147, 59, 118, 236, 197, 151, 51, 102, 204],
   [133, 23, 46, 92, 184, 109, 218, 169, 79, 158, 33, 66, 132, 21, 42, 84],
   [168, 77, 154, 41, 82, 164, 85, 170, 73, 146, 57, 114, 228, 213, 183, 115],
   [230, 209, 191, 99, 198, 145, 63, 126, 252, 229, 215, 179, 123, 246, 241, 255],
   [227, 219, 171, 75, 150, 49, 98, 196, 149, 55, 110, 220, 165, 87, 174, 65],
   [130, 25, 50, 100, 200, 141, 7, 14, 28, 56, 112, 224, 221, 167, 83, 166],
   [81, 162, 89, 178, 121, 242, 249, 239, 195, 155, 43, 86, 172, 69, 138, 9],
   [18, 36, 72, 144, 61, 122, 244, 245, 247, 243, 251, 235, 203, 139, 11, 22],
   [44, 88, 176, 125, 250, 233, 207, 131, 27, 54, 108, 216, 173, 71, 142]]

/-- `LOG[16*r + c]` at row r, column c, as printed in R133; the first place, LOG[0], is the sentinel's and is never read
(`gfLog`). -/
def logRows : List (List Nat) :=
  [[0, 0, 1, 25, 2, 50, 26, 198, 3, 223, 51, 238, 27, 104, 199, 75],
   [4, 100, 224, 14, 52, 141, 239, 129, 28, 193, 105, 248, 200, 8, 76, 113],
   [5, 138, 101, 47, 225, 36, 15, 33, 53, 147, 142, 218, 240, 18, 130, 69],
   [29, 181, 194, 125, 106, 39, 249, 185, 201, 154, 9, 120, 77, 228, 114, 166],
   [6, 191, 139, 98, 102, 221, 48, 253, 226, 152, 37, 179, 16, 145, 34, 136],
   [54, 208, 148, 206, 143, 150, 219, 189, 241, 210, 19, 92, 131, 56, 70, 64],
   [30, 66, 182, 163, 195, 72, 126, 110, 107, 58, 40, 84, 250, 133, 186, 61],
   [202, 94, 155, 159, 10, 21, 121, 43, 78, 212, 229, 172, 115, 243, 167, 87],
   [7, 112, 192, 247, 140, 128, 99, 13, 103, 74, 222, 237, 49, 197, 254, 24],
   [227, 165, 153, 119, 38, 184, 180, 124, 17, 68, 146, 217, 35, 32, 137, 46],
   [55, 63, 209, 91, 149, 188, 207, 205, 144, 135, 151, 178, 220, 252, 190, 97],
   [242, 86, 211, 171, 20, 42, 93, 158, 132, 60, 57, 83, 71, 109, 65, 162],
   [31, 45, 67, 216, 183, 123, 164, 118, 196, 23, 73, 236, 127, 12, 111, 246],
   [108, 161, 59, 82, 41, 157, 85, 170, 251, 96, 134, 177, 187, 204, 62, 90],
   [203, 89, 95, 176, 156, 169, 160, 81, 11, 245, 22, 235, 122, 117, 44, 215],
   [79, 174, 213, 233, 230, 231, 173, 232, 116, 214, 244, 234, 168, 80, 88, 175]]

/-- Entry `16*r + c` of a table of rows of sixteen. -/
def rowsAt (rows : List (List Nat)) (i : Nat) : Nat := (rows.getD (i / 16) []).getD (i % 16) 0

/-- `EXP[i]` for i in 0..254 (R132). -/
def gfExp (i : Nat) : Byte := BitVec.ofNat 8 (rowsAt expRows i)

/-- `LOG[v]`; none, the sentinel, for 0 (R133). -/
def gfLog (v : Byte) : Option Nat := if v = 0 then none else some (rowsAt logRows v.toNat)

/-- `a (+) b` (R134). -/
def gfAdd (a b : Byte) : Byte := a ^^^ b

/-- `a (*) b`, which is `MUL[a][b]`: 0 when a factor is 0, else `EXP[(LOG[a] + LOG[b]) mod 255]` (R135). -/
def gfMul (a b : Byte) : Byte :=
  match gfLog a, gfLog b with
  | some i, some j => gfExp ((i + j) % 255)
  | _, _ => 0

/-- `ROWOF(c)`, the multiply-by-c row (R136). -/
def gfRow (c : Byte) : List Byte := (List.range 256).map fun i => gfMul c (BitVec.ofNat 8 i)

/-- `GEN[d]`, the coefficients of the generator polynomial of degree d below its leading 1, highest power first (R137).
The step multiplies the full polynomial by `x + ALPHA^d`. -/
def gfGen : Nat → List Byte
  | 0 => []
  | d + 1 =>
    let full := 1 :: gfGen d
    List.zipWith (fun next this => gfAdd next (gfMul (gfExp d) this)) ((gfGen d) ++ [0]) full

/-! The commands. -/

/-- GFADD a, b (R140). -/
def execGfadd (a b : Byte) (s : State) : Result := .next (setR0 (gfAdd a b).toNat s)

/-- GFMUL a, b (R141). -/
def execGfmul (a b : Byte) (s : State) : Result := .next (setR0 (gfMul a b).toNat s)

/-- GFEXP i: the index is reduced modulo 255 (R142). -/
def execGfexp (i : Nat) (s : State) : Result := .next (setR0 (gfExp (i % 255)).toNat s)

/-- The register image of a logarithm: 0xFFFFFFFF for the sentinel (R143). -/
def logImage (a : Byte) : Nat :=
  match gfLog a with
  | some i => i
  | none => 0xFFFFFFFF

/-- GFLOG a (R143). -/
def execGflog (a : Byte) (s : State) : Result := .next (setR0 (logImage a) s)

/-- GFROW c: all 256 bytes of ROW are written (R144). -/
def execGfrow (c : Byte) (s : State) : Result := .next (writeBuf .row 0 (gfRow c) s)

/-- GFGEN d (R145). -/
def execGfgen (d : Nat) (s : State) : Result :=
  if d < 1 ∨ d > Config.genMax then takeFault opGfgen .range d s
  else .next (setR0 d (writeBuf .row 0 (gfGen d) s))

end Sys2Proof.Machine
end

