-- ==== Sys2Proof/Machine/ReedSolomon.lean ====
section
/-! DEFINITION. ReedSolomonCodec: the systematic encoder, the single-bit contribution, and the commands RSENC and RSBIT
(spec/42_reed_solomon.md). -/

namespace Sys2Proof.Machine

/-- One step of the long division by the generator `g`: the message byte `m` enters the remainder (R161). -/
def rsStep (g rem : List Byte) (m : Byte) : List Byte :=
  let f := gfAdd m (rem.headD 0)
  List.zipWith (fun r c => gfAdd r (gfMul c f)) (rem.tail ++ [0]) g

/-- `rs(m, e)`, the e redundancy bytes of a message, highest power first (R160, in the form of R161). -/
def rs (m : List Byte) (e : Nat) : List Byte := m.foldl (rsStep (gfGen e)) (List.replicate e 0)

/-- `RSTAB[e][n-1][p][v]`, the contribution of byte value v at position p of a message of n bytes (R165). -/
def rsTab (e n p : Nat) (v : Byte) : List Byte := rs (List.replicate p 0 ++ v :: List.replicate (n - 1 - p) 0) e

/-- The message of `byteExponent + 1` bytes whose only set bit is bit `bitPosition` of its first byte (R166). -/
def singleBitMessage (bitPosition byteExponent : Nat) : List Byte :=
  BitVec.ofNat 8 (1 <<< bitPosition) :: List.replicate byteExponent 0

/-- `sbc(bitPosition, byteExponent, e)`, the single-bit contribution (R166). -/
def sbc (bitPosition byteExponent e : Nat) : List Byte := rs (singleBitMessage bitPosition byteExponent) e

/-- RSENC len, eccLen under a choice of RS_MAXLEN and of the tables (R163, R170, R250). -/
def rsencWithin (chosen : Nat → Nat) (len eccLen : Nat) (s : State) (q : QrTables := printedTables) : Result :=
  if rsSupported chosen len eccLen q then
    .next (setR0 eccLen (writeBuf .ecc 0 (rs (readBuf .msg len s) eccLen) s))
  else takeFault opRsenc .rsunsup (pairInfo len eccLen) s

/-- RSENC len, eccLen; RS_MAXLEN is the free value (R170; log entry 5). -/
def execRsenc (len eccLen : Nat) (s : State) : Result := rsencWithin Config.rsMaxLen len eccLen s

/-- RSBIT bitPosition, byteExponent, eccLen under a choice of RS_MAXLEN and of the tables; the bit position is checked
first (R163, R171, R250). -/
def rsbitWithin (chosen : Nat → Nat) (bitPosition byteExponent eccLen : Nat) (s : State)
    (q : QrTables := printedTables) : Result :=
  if bitPosition > 7 then takeFault opRsbit .range bitPosition s
  else if rsSupported chosen (byteExponent + 1) eccLen q then
    .next (setR0 eccLen (writeBuf .ecc 0 (sbc bitPosition byteExponent eccLen) s))
  else takeFault opRsbit .rsunsup (pairInfo (byteExponent + 1) eccLen) s

/-- RSBIT bitPosition, byteExponent, eccLen; RS_MAXLEN is the free value (R171; log entry 5). -/
def execRsbit (bitPosition byteExponent eccLen : Nat) (s : State) : Result :=
  rsbitWithin Config.rsMaxLen bitPosition byteExponent eccLen s

end Sys2Proof.Machine
end

