-- ==== Sys2Proof/Machine/Assembler.lean ====
section
/-! DEFINITION. SymbolAssembler: the ecc of the blocks, the module matrix, and the commands BUILD, ASSEMBLE, GET and SIZE
(spec/47_assembler.md). -/

namespace Sys2Proof.Machine

/-- Block k of the data codewords (R375). -/
def blockData (r : BlockRow) (data : List Byte) (k : Nat) : List Byte := (data.drop (dataOff r k)).take (dataLen r k)

/-- ECCW: the ecc of every block, block after block (R375). -/
def blocksEcc (r : BlockRow) (data : List Byte) : List Byte :=
  (List.range (nblocks r)).flatMap fun k => rs (blockData r data k) r.eccLen

/-- `U`, the module value of a cell before the mask (R370). -/
def unmasked (v : Nat) (l : Level) (m : Nat) (data ecc : List Byte) (c : Cell) (q : QrTables := printedTables) : Bool :=
  match c with
  | .finderPattern value => value
  | .separator value => value
  | .timingPattern value => value
  | .alignmentPattern value => value
  | .otherFixed value => value
  | .formatInfo bit _ => (fmtWord l m).testBit bit
  | .versionInfo bit _ => (verWord v).testBit bit
  | .data _ bit k i => (data.getD (dataOff (blockRow v l q) k + i) 0).getLsbD bit
  | .ecc _ bit k i => (ecc.getD (k * (blockRow v l q).eccLen + i) 0).getLsbD bit
  | .padding => false
  | .unassigned => false

/-- `MATRIX` by bit index `y*side + x`: U xored with the mask array (R42, R370). -/
def matrixBits (v : Nat) (l : Level) (m : Nat) (data ecc : List Byte) (q : QrTables := printedTables) : List Bool :=
  let cells := walk v q
  let stream := cwStream (blockRow v l q)
  (List.range (side v)).flatMap fun y => (List.range (side v)).map fun x =>
    let c := cellWith cells stream v x y q
    unmasked v l m data ecc c q ^^ (c.maskable && maskPred m x y)

/-- The symbol of the given data codewords under the current layout and mask: ECCW, GRID, GRIDV and R0 (R371, R372). -/
def assembleSymbol (data : List Byte) (s : State) (q : QrTables := printedTables) : State :=
  let ecc := blocksEcc (curRow s q) data
  setR0 (curSide s) (markGrid (writeGrid (matrixBits (curVersion s) s.cfg.ecl (curMask s) data ecc q) (writeBuf .eccw 0 ecc s)))

/-- BUILD under the given tables (R250, R371). -/
def buildUnder (q : QrTables) (s : State) : Result :=
  if !s.cfg.layv then takeFault opBuild .nolayout 0 s
  else if !s.cfg.mskv then takeFault opBuild .nomask 0 s
  else if s.blen.toNat ≠ 8 * dataTotal (curRow s q) then takeFault opBuild .length s.blen.toNat s
  else
    let data := readBuf .bits (dataTotal (curRow s q)) s
    .next (assembleSymbol data (writeBuf .data 0 data s) q)

/-- BUILD (R371). -/
def execBuild (s : State) : Result := buildUnder printedTables s

/-- ASSEMBLE under the given tables (R250, R372). -/
def assembleUnder (q : QrTables) (s : State) : Result :=
  if !s.cfg.layv then takeFault opAssemble .nolayout 0 s
  else if !s.cfg.mskv then takeFault opAssemble .nomask 0 s
  else .next (assembleSymbol (readBuf .data (dataTotal (curRow s q)) s) s q)

/-- ASSEMBLE (R372). -/
def execAssemble (s : State) : Result := assembleUnder printedTables s

/-- GET x, y (R373). -/
def execGet (x y : Nat) (s : State) : Result :=
  if !s.cfg.gridv then takeFault opGet .nogrid 0 s
  else if x ≥ curSide s then takeFault opGet .range x s
  else if y ≥ curSide s then takeFault opGet .range y s
  else .next (setR0 (gridBit s (y * curSide s + x)).toNat s)

/-- SIZE (R374). -/
def execSize (s : State) : Result :=
  if !s.cfg.gridv then takeFault opSize .nogrid 0 s
  else .next (setR0 (curSide s) s)

end Sys2Proof.Machine
end

