-- ==== Sys2Proof/Machine/Control.lean ====
section
/-! DEFINITION. The control commands NOP and CLRF (spec/40_control.md). -/

namespace Sys2Proof.Machine

/-- NOP: nothing changes (R121). -/
def execNop (s : State) : Result := .next s

/-- CLRF: `STATUS <- 0` (R122). -/
def execClrf (s : State) : Result := .next (clearFault s)

end Sys2Proof.Machine
end

