-- ==== Sys2Proof/Machine/Encoder.lean ====
section
/-! DEFINITION. DataEncoder: classes, spans, segmentation, version selection, the bit stream and its fill, and the commands
ENC and ENCV (spec/45_data_encoder.md). -/

namespace Sys2Proof.Machine

/-! Character classes (R270 to R273). -/

/-- `alnum(b)`, the value of a byte in ALNUM_TABLE; none outside it (R271). -/
def alnum? (b : Byte) : Option Nat := alnumCodes.findIdx? fun c => c == b.toNat

/-- `class(b)`; the digit test comes first (R270). -/
def classOf (b : Byte) : CharClass :=
  if 0x30 ≤ b.toNat ∧ b.toNat ≤ 0x39 then .N
  else if (alnum? b).isSome then .A
  else .B

/-- A segment of type `t` can carry a byte of class `c`: `t` is in `ALLOWED(c)` (R272). -/
def allowed : CharClass → CharClass → Bool
  | .N, .N => true
  | .N, .A => true
  | .N, .B => true
  | .A, .N => false
  | .A, .A => true
  | .A, .B => true
  | .B, .N => false
  | .B, .A => false
  | .B, .B => true

/-- `spans(payload)`: the maximal runs of equal class, in order (R273). -/
def spans : List Byte → List (CharClass × Nat)
  | [] => []
  | b :: bs =>
    match spans bs with
    | [] => [(classOf b, 1)]
    | (c, n) :: rest => if c = classOf b then (c, n + 1) :: rest else (classOf b, 1) :: (c, n) :: rest

/-! Bit costs (R274 to R277). -/

/-- `tier(version)` (R274). -/
def tier (v : Nat) : Nat := if v ≤ 9 then 0 else if v ≤ 26 then 1 else 2

/-- `segbits(T, n)` (R277). -/
def segbits : CharClass → Nat → Nat
  | .N, n => 10 * (n / 3) + (if n % 3 = 0 then 0 else if n % 3 = 1 then 4 else 7)
  | .A, n => 11 * (n / 2) + 6 * (n % 2)
  | .B, n => 8 * n

/-- `hdr(T, t)`, mode indicator and length field (R277). -/
def hdr (ty : CharClass) (t : Nat) : Nat := 4 + countWidth ty t

/-! Segmentation (R278 to R283). -/

/-- A segment: its type and its length in characters (R278). -/
structure Segment where
  type : CharClass
  len : Nat
deriving DecidableEq, Repr

/-- A tree of R279: the total bit count of its segments, its last segment, and the segments before that one, last first
(what following `pred` gives). -/
structure Tree where
  total : Nat
  tailType : CharClass
  tailLen : Nat
  earlier : List Segment
deriving DecidableEq, Repr

/-- The segments of a tree, last first. -/
def Tree.segments (p : Tree) : List Segment := ⟨p.tailType, p.tailLen⟩ :: p.earlier

/-- `best[N], best[A], best[B]`, each a tree or absent (R279). -/
structure Best where
  n : Option Tree
  a : Option Tree
  b : Option Tree
deriving DecidableEq, Repr

/-- `best[T]`. -/
def Best.of (best : Best) : CharClass → Option Tree
  | .N => best.n
  | .A => best.a
  | .B => best.b

/-- The tree of least total, the first of them on a tie (R280). -/
def leastTree : List Tree → Option Tree
  | [] => none
  | p :: ps =>
    match leastTree ps with
    | none => some p
    | some q => if p.total ≤ q.total then some p else some q

/-- The present trees among `best[U]`, `U != T`, in the order N, A, B (R279, R280). -/
def otherTrees (best : Best) (ty : CharClass) : List Tree :=
  (([CharClass.N, .A, .B].filter fun u => u != ty).filterMap best.of)

/-- `ext`: the same-type tail made longer (R279). -/
def extendTree (best : Best) (ty : CharClass) (n : Nat) : Option Tree :=
  (best.of ty).map fun p =>
    ⟨p.total - segbits ty p.tailLen + segbits ty (p.tailLen + n), ty, p.tailLen + n, p.earlier⟩

/-- `br`: a new segment after the cheapest other-type tree, or the first segment of all (R279). -/
def branchTree (best : Best) (ty : CharClass) (n t : Nat) : Option Tree :=
  match leastTree (otherTrees best ty) with
  | some p => some ⟨p.total + hdr ty t + segbits ty n, ty, n, p.segments⟩
  | none => if (best.of ty).isNone then some ⟨hdr ty t + segbits ty n, ty, n, []⟩ else none

/-- `best'[T]` for the span `(c, n)`: the cheaper of the extended and the branched tree, the extended one on a tie
(R279, R280). -/
def nextTree (best : Best) (t : Nat) (c : CharClass) (n : Nat) (ty : CharClass) : Option Tree :=
  if allowed c ty then
    match extendTree best ty n, branchTree best ty n t with
    | some e, some b => if e.total ≤ b.total then some e else some b
    | some e, none => some e
    | none, br => br
  else none

/-- One span (R279). -/
def nextBest (t : Nat) (best : Best) (span : CharClass × Nat) : Best :=
  ⟨nextTree best t span.1 span.2 .N, nextTree best t span.1 span.2 .A, nextTree best t span.1 span.2 .B⟩

/-- The state after all spans (R279). -/
def bestTrees (payload : List Byte) (t : Nat) : Best := (spans payload).foldl (nextBest t) ⟨none, none, none⟩

/-- Mode Auto: the total and the segments of the selected tree; 0 and none for the empty payload (R279 to R281). -/
def autoSegments (payload : List Byte) (t : Nat) : Nat × List Segment :=
  match leastTree ([CharClass.N, .A, .B].filterMap (bestTrees payload t).of) with
  | none => (0, [])
  | some p => (p.total, p.segments.reverse)

/-- A fixed mode: one segment of the payload's length, none for the empty payload (R283). -/
def fixedSegments (ty : CharClass) (payload : List Byte) (t : Nat) : Nat × List Segment :=
  if payload = [] then (0, []) else (hdr ty t + segbits ty payload.length, [⟨ty, payload.length⟩])

/-- The segmentation of a payload at a tier: the total bit count and the segment list (R278). -/
def segmentation (m : Mode) (payload : List Byte) (t : Nat) : Nat × List Segment :=
  match m with
  | .auto => autoSegments payload t
  | .fixed ty => fixedSegments ty payload t

/-- The index of the first payload byte that a fixed mode cannot carry (R283). -/
def firstUnfit (m : Mode) (payload : List Byte) : Option Nat :=
  match m with
  | .auto => none
  | .fixed ty => payload.findIdx? fun b => !allowed (classOf b) ty

/-! Version selection (R286). -/

/-- `cap(v)`, the data capacity in bits (R286). -/
def capBits (v : Nat) (l : Level) (q : QrTables := printedTables) : Nat := 8 * dataTotal (blockRow v l q)

/-- The first version from `first` to `last` that fits, with the segmentation at the tier of `first` (R286). -/
def tryTier (l : Level) (m : Mode) (payload : List Byte) (first last : Nat) (q : QrTables := printedTables) :
    Option (Nat × Nat × List Segment) :=
  let seg := segmentation m payload (tier first)
  (((List.range (last + 1 - first)).map (first + ·)).find? fun v => seg.1 ≤ capBits v l q).map fun v => (v, seg.1, seg.2)

/-- The version, total and segments of ENC; none when no version up to 40 fits (R286). -/
def selectVersion (l : Level) (m : Mode) (payload : List Byte) (q : QrTables := printedTables) :
    Option (Nat × Nat × List Segment) :=
  tryTier l m payload 1 9 q <|> tryTier l m payload 10 26 q <|> tryTier l m payload 27 40 q

/-! The bit stream (R284, R287, R288). -/

/-- A number in a field of the given width, most significant bit first (R11, R284). -/
def natBits (width n : Nat) : List Bool := (List.range width).map fun i => n.testBit (width - 1 - i)

/-- The value of a digit byte. -/
def digitValue (b : Byte) : Nat := b.toNat - 0x30

/-- `alnum(b)` of a byte of the alphabet. -/
def alnumValue (b : Byte) : Nat := (alnum? b).getD 0

/-- Digits in groups of three, 10 bits each; a last group of two in 7 bits, of one in 4 (R284). -/
def numericBits : List Byte → List Bool
  | a :: b :: c :: rest => natBits 10 (100 * digitValue a + 10 * digitValue b + digitValue c) ++ numericBits rest
  | [a, b] => natBits 7 (10 * digitValue a + digitValue b)
  | [a] => natBits 4 (digitValue a)
  | [] => []

/-- Characters in pairs, 11 bits each; a last one in 6 bits (R284). -/
def alnumBits : List Byte → List Bool
  | a :: b :: rest => natBits 11 (45 * alnumValue a + alnumValue b) ++ alnumBits rest
  | [a] => natBits 6 (alnumValue a)
  | [] => []

/-- The data bits of a segment (R284). -/
def dataBits : CharClass → List Byte → List Bool
  | .N, bytes => numericBits bytes
  | .A, bytes => alnumBits bytes
  | .B, bytes => bytes.flatMap fun b => natBits 8 b.toNat

/-- A segment: mode indicator, length field, data bits (R284). -/
def segmentBits (t : Nat) (g : Segment) (bytes : List Byte) : List Bool :=
  natBits 4 (modeInd g.type) ++ natBits (countWidth g.type t) g.len ++ dataBits g.type bytes

/-- The segments one after the other, each over its part of the payload (R284). -/
def segmentsBits (t : Nat) : List Segment → List Byte → List Bool
  | [], _ => []
  | g :: gs, payload => segmentBits t g (payload.take g.len) ++ segmentsBits t gs (payload.drop g.len)

/-- The fill from `total` bits to the capacity `cap`: zeros, or the alternative reading's terminator, byte fill and pad
bytes 0xEC, 0x11 (R287). -/
def fillBits (pad : PadFill) (cap total : Nat) : List Bool :=
  match pad with
  | .zero => List.replicate (cap - total) false
  | .iso =>
    let ended := total + min 4 (cap - total)
    let start := ended + (8 - ended % 8) % 8
    List.replicate (start - total) false
      ++ (List.range ((cap - start) / 8)).flatMap fun i => natBits 8 (if i % 2 = 0 then 0xEC else 0x11)

/-- The number whose binary digits, first digit first, are the bits. -/
def bitsValue (bits : List Bool) : Nat := bits.foldl (fun n b => 2 * n + b.toNat) 0

/-- Bits packed into bytes, the first bit in bit 7; the stream's length is a multiple of 8 (R11, R288). -/
def packBytes : List Bool → List Byte
  | b7 :: b6 :: b5 :: b4 :: b3 :: b2 :: b1 :: b0 :: rest =>
    BitVec.ofNat 8 (bitsValue [b7, b6, b5, b4, b3, b2, b1, b0]) :: packBytes rest
  | _ => []

/-- The final stream of `cap(v)` bits (R284, R287). -/
def finalStream (pad : PadFill) (v : Nat) (l : Level) (payload : List Byte) (total : Nat) (segs : List Segment)
    (q : QrTables := printedTables) : List Bool :=
  segmentsBits (tier v) segs payload ++ fillBits pad (capBits v l q) total

/-- What ENC and ENCV leave under a choice of PAD_FILL and of the tables: the packed stream in BITS, its length in BLEN,
version, total and number of segments in R0, R1, R2 (R288, R290, R291). -/
def placeStream (pad : PadFill) (v : Nat) (l : Level) (payload : List Byte) (total : Nat) (segs : List Segment) (s : State)
    (q : QrTables := printedTables) : State :=
  setR012 v total segs.length
    { writeBuf .bits 0 (packBytes (finalStream pad v l payload total segs q)) s with
      blen := BitVec.ofNat 16 (capBits v l q) }

/-! The commands. -/

/-- The payload, `PAY[0 .. LEN0-1]` (R290). -/
def payloadOf (s : State) : List Byte := readBuf .pay s.len0.toNat s

/-- LEN0 is more than PAY holds (R290). -/
def payloadTooLong (s : State) : Bool := s.len0.toNat > 8192

/-- ENC ecLevel, mode under a choice of PAD_FILL and of the tables (R250, R287, R290). -/
def encFilling (pad : PadFill) (ecLevel mode : Nat) (s : State) (q : QrTables := printedTables) : Result :=
  match levelOf? ecLevel with
  | none => takeFault opEnc .eclevel ecLevel s
  | some l =>
    match modeOf? mode with
    | none => takeFault opEnc .mode mode s
    | some m =>
      if payloadTooLong s then takeFault opEnc .range s.len0.toNat s
      else
        match firstUnfit m (payloadOf s) with
        | some i => takeFault opEnc .charset i s
        | none =>
          match selectVersion l m (payloadOf s) q with
          | none => takeFault opEnc .capacity 0 s
          | some (v, total, segs) => .next (placeStream pad v l (payloadOf s) total segs s q)

/-- ENC ecLevel, mode; PAD_FILL is this unit's (R287, R290; log entry 6). -/
def execEnc (ecLevel mode : Nat) (s : State) : Result := encFilling padFill ecLevel mode s

/-- ENCV version, ecLevel, mode under a choice of PAD_FILL and of the tables (R250, R287, R291). -/
def encvFilling (pad : PadFill) (version ecLevel mode : Nat) (s : State) (q : QrTables := printedTables) :
    Result :=
  if version < 1 ∨ version > Config.maxVersion then takeFault opEncv .version version s
  else
    match levelOf? ecLevel with
    | none => takeFault opEncv .eclevel ecLevel s
    | some l =>
      match modeOf? mode with
      | none => takeFault opEncv .mode mode s
      | some m =>
        if payloadTooLong s then takeFault opEncv .range s.len0.toNat s
        else
          match firstUnfit m (payloadOf s) with
          | some i => takeFault opEncv .charset i s
          | none =>
            let seg := segmentation m (payloadOf s) (tier version)
            if seg.1 > capBits version l q then takeFault opEncv .toobig version s
            else .next (placeStream pad version l (payloadOf s) seg.1 seg.2 s q)

/-- ENCV version, ecLevel, mode; PAD_FILL is this unit's (R287, R291; log entry 6). -/
def execEncv (version ecLevel mode : Nat) (s : State) : Result := encvFilling padFill version ecLevel mode s

end Sys2Proof.Machine
end

