-- ==== Sys2Proof/Machine/Solver.lean ====
section
/-! DEFINITION. ConstraintSolver: the LinearSystem over GF(2), the seven steps of the solve, and the command SOLVEBLK
(spec/46_solver.md). The draw PERM is an argument of the solve; the command takes it from the free value `Config.draw`
(log entry 2), and RS_MAXLEN likewise (log entry 5); the tables are the last argument, the printed ones where none is named
(R250). -/

namespace Sys2Proof.Machine

/-! Vectors and rows (R324, R325). -/

/-- A vector of the LinearSystem: bit t stands for target t (R324). -/
abbrev SolverVec := BitVec Config.vecWidth

/-- The vector whose bit t is the t-th element of the list, 0 past its end (R324). -/
def vecOf : List Bool → SolverVec
  | [] => 0
  | b :: bs => vecOf bs <<< 1 ||| (if b then 1 else 0)

/-- The index of the first set bit (R325). -/
def lowestBit (v : SolverVec) : Option Nat := (List.range Config.vecWidth).find? fun t => v.getLsbD t

/-- A row `(pivot, vec, comb)`: `vec` is the xor of the offered vectors of the members of `comb` (R325). -/
structure Row where
  pivot : Nat
  vec : SolverVec
  comb : List Nat
deriving DecidableEq, Repr

/-- The symmetric difference of two sets of identifiers (R327). -/
def symdiff (a b : List Nat) : List Nat := (a.filter fun i => !b.contains i) ++ b.filter fun i => !a.contains i

/-- The loop of R327 and R328: by increasing pivot, every row whose pivot bit is set is xored in, its combination with
it. -/
def reduceBy (rows : List Row) (v : SolverVec) (c : List Nat) : SolverVec × List Nat :=
  rows.foldl (fun acc r => if acc.1.getLsbD r.pivot then (acc.1 ^^^ r.vec, symdiff acc.2 r.comb) else acc) (v, c)

/-- Column `q` cleared in a row by the new row (R327). -/
def clearColumn (q : Nat) (v : SolverVec) (c : List Nat) (r : Row) : Row :=
  if r.vec.getLsbD q then ⟨r.pivot, r.vec ^^^ v, symdiff r.comb c⟩ else r

/-- A row put in its place, the pivots kept increasing (R327). -/
def placeRow (row : Row) : List Row → List Row
  | [] => [row]
  | r :: rows => if row.pivot < r.pivot then row :: r :: rows else r :: placeRow row rows

/-- `insert(id, v)`: the rows after an accepted vector, none when the vector is dependent (R327). -/
def insertVec (id : Nat) (v : SolverVec) (rows : List Row) : Option (List Row) :=
  let w := reduceBy rows v [id]
  (lowestBit w.1).map fun q => placeRow ⟨q, w.1, w.2⟩ (rows.map (clearColumn q w.1 w.2))

/-- `solve(c)`: the leftover and the set of identifiers whose bit is 1 (R328). -/
def solveVec (rows : List Row) (c : SolverVec) : SolverVec × List Nat := reduceBy rows c []

/-! The draw (R334). -/

/-- The permutation of a list that a raw draw selects: each element is put among those after it at the place the draw
names. Every permutation of the list is selected by some draw, the identity by the draw 0. -/
def permute (f : Nat → Nat) : List Nat → List Nat
  | [] => []
  | i :: is => (permute f is).insertIdx (f is.length % (is.length + 1)) i

/-! The template of one block (R320 to R323). -/

/-- What a solve is given: the block's length in data and in ecc codewords, the labels of its data and ecc bits, and the
mask bits of the modules that own them, all 0 in the raw form (R320, R323). -/
structure Template where
  dataCw : Nat
  eccCw : Nat
  td : List Label
  te : List Label
  md : List Bool
  me : List Bool
deriving DecidableEq, Repr

/-- The i-th label. -/
def labelAt (labels : List Label) (i : Nat) : Label := labels.getD i ⟨false, false⟩

/-- The indices, in increasing order, of the labels of kind 1: the free data bits, the target ecc bits (R324, R331). -/
def markedBits (labels : List Label) : List Nat := (List.range labels.length).filter fun i => (labelAt labels i).kind

/-- `free` (R331). -/
def Template.free (p : Template) : List Nat := markedBits p.td

/-- `tgt[0 .. K-1]` (R324). -/
def Template.targets (p : Template) : List Nat := markedBits p.te

/-- `dv[i]`, the codeword-domain value of a data label (R331). -/
def Template.dataValue (p : Template) (i : Nat) : Bool := (labelAt p.td i).value ^^ p.md.getD i false

/-- `tv[t]` for the target at ecc bit `j = tgt[t]` (R331). -/
def Template.targetValue (p : Template) (j : Nat) : Bool := (labelAt p.te j).value ^^ p.me.getD j false

/-- Bit j of a sequence of codewords, in stream order (R321). -/
def bitOfBytes (bytes : List Byte) (j : Nat) : Bool := streamBit (bytes.getD (j / 8) 0) (j % 8)

/-- The bits of codewords at the target positions, as a vector (R324, R335). -/
def projectTargets (p : Template) (ecc : List Byte) : SolverVec := vecOf (p.targets.map (bitOfBytes ecc))

/-! The steps (R331 to R338). -/

/-- The contribution vector of free bit i (R335). -/
def contribution (p : Template) (i : Nat) : SolverVec :=
  projectTargets p (sbc (7 - i % 8) (p.dataCw - 1 - i / 8) p.eccCw)

/-- The LinearSystem and the solved bits while the free bits are offered in order (R335). -/
structure Pass where
  rows : List Row
  solved : List Nat
deriving DecidableEq, Repr

/-- One free bit offered: accepted, it is solved; dependent, it goes to overflow (R335). -/
def offerBit (p : Template) (st : Pass) (i : Nat) : Pass :=
  match insertVec i (contribution p i) st.rows with
  | some rows => ⟨rows, st.solved ++ [i]⟩
  | none => st

/-- Step 4 over the whole list: the LinearSystem starts empty (R326, R335). -/
def offerAll (p : Template) (order : List Nat) : Pass := order.foldl (offerBit p) ⟨[], []⟩

/-- `r`, the residual message: fixed and overflow bits at their values, solved bits at 0 (R336). -/
def residualBits (p : Template) (solved : List Nat) : List Bool :=
  (List.range p.td.length).map fun i => if solved.contains i then false else p.dataValue i

/-- `c`, the correction vector: each target value xored with the residual's ecc bit (R336). -/
def correction (p : Template) (solved : List Nat) : SolverVec :=
  vecOf (p.targets.map p.targetValue) ^^^ projectTargets p (rs (packBytes (residualBits p solved)) p.eccCw)

/-- `d`, the resolved block: fixed and overflow bits at their values, each solved bit at its coefficient (R337, R338). -/
def resolvedBits (p : Template) (st : Pass) : List Bool :=
  let x := (solveVec st.rows (correction p st.solved)).2
  (List.range p.td.length).map fun i => if st.solved.contains i then x.contains i else p.dataValue i

/-- What a solve yields: the resolved codeword bits and the number N of solved bits (R338, R340). -/
structure Solution where
  bits : List Bool
  rank : Nat
deriving DecidableEq, Repr

/-- The solve. With no target every bit keeps its value and nothing is drawn (R332); else steps 3 to 7 with the permutation
the draw selects (R334 to R338). -/
def solveTemplate (draw : Nat → Nat) (p : Template) : Solution :=
  if p.targets = [] then ⟨(List.range p.td.length).map p.dataValue, 0⟩
  else
    let st := offerAll p (permute draw p.free)
    ⟨resolvedBits p st, st.solved.length⟩

/-- How many draws a solve takes (R332, R334). -/
def drawsTaken (p : Template) : Nat := if p.targets = [] then 0 else 1

/-! The command (R322, R323, R340). -/

/-- The mask bits of the modules that own the bits of one kind of block k, `md` and `me` (R323). -/
def ownerMaskBits (kind : CwKind) (k n : Nat) (s : State) (q : QrTables := printedTables) : List Bool :=
  (List.range n).map fun i =>
    match cellOfBit (curVersion s) s.cfg.ecl ⟨kind, k, i / 8⟩ (7 - i % 8) q with
    | some c => maskArr (curVersion s) s.cfg.ecl (curMask s) c.1 c.2 q
    | none => false

/-- The label bytes `TD[0 .. LEN0-1]` (R320). -/
def dataLabels (s : State) : List Byte := readBuf .td s.len0.toNat s

/-- The label bytes `TE[0 .. LEN1-1]` (R320). -/
def eccLabels (s : State) : List Byte := readBuf .te s.len1.toNat s

/-- The template of the raw form: no mask (R320, R323). -/
def rawTemplate (s : State) : Template where
  dataCw := s.len0.toNat / 8
  eccCw := s.len1.toNat / 8
  td := (dataLabels s).map labelOf
  te := (eccLabels s).map labelOf
  md := List.replicate s.len0.toNat false
  me := List.replicate s.len1.toNat false

/-- The template of block k of the current layout under the selected mask (R320, R323). -/
def blockTemplate (k : Nat) (s : State) (q : QrTables := printedTables) : Template :=
  { rawTemplate s with
    md := ownerMaskBits .data k s.len0.toNat s q
    me := ownerMaskBits .ecc k s.len1.toNat s q }

/-- The label check, TD before TE (R322). -/
def badLabel (s : State) : Option Nat :=
  match firstBadLabel (dataLabels s) with
  | some i => some i
  | none => (firstBadLabel (eccLabels s)).map (0x8000 + ·)

/-- A resolved bit as a byte of OUT (R320). -/
def bitByte (b : Bool) : Byte := if b then 1 else 0

/-- The results common to both forms: OUT in the domain of the labels, ECC in the codeword domain, N, the number of free
bits that kept their seed, and K; the draw is used up (R338, R340). -/
def placeSolution (p : Template) (sol : Solution) (s : State) : State :=
  setR012 sol.rank (p.free.length - sol.rank) p.targets.length
    { writeBuf .ecc 0 (rs (packBytes sol.bits) p.eccCw)
        (writeBuf .out 0 ((List.zipWith (fun d m => d ^^ m) sol.bits p.md).map bitByte) s) with
      draws := s.draws + drawsTaken p }

/-- A length of the raw form: a multiple of 8 from 8 to the size of its label buffer (R322). -/
def rawLengthLegal (b : Buffer) (n : Nat) : Bool := n % 8 == 0 && 8 ≤ n && n ≤ b.size

/-- SOLVEBLK k, RAW under a choice of RS_MAXLEN and of the tables and with the given draw: no layout is read and DATA is not
written (R322, R340). -/
def solveRaw (chosen draw : Nat → Nat) (k : Nat) (s : State) (q : QrTables := printedTables) : Result :=
  if k ≠ 0 then takeFault opSolveblk .range k s
  else if !rawLengthLegal .td s.len0.toNat then takeFault opSolveblk .length s.len0.toNat s
  else if !rawLengthLegal .te s.len1.toNat then takeFault opSolveblk .length s.len1.toNat s
  else if !rsSupported chosen (s.len0.toNat / 8) (s.len1.toNat / 8) q then
    takeFault opSolveblk .rsunsup (pairInfo (s.len0.toNat / 8) (s.len1.toNat / 8)) s
  else
    match badLabel s with
    | some i => takeFault opSolveblk .label i s
    | none => .next (placeSolution (rawTemplate s) (solveTemplate draw (rawTemplate s)) s)

/-- SOLVEBLK k with the given draw and the given tables: block k of the current layout, whose resolved codewords also go to
DATA (R322, R323, R340). -/
def solveLayoutBlock (draw : Nat → Nat) (k : Nat) (s : State) (q : QrTables := printedTables) : Result :=
  if !s.cfg.layv then takeFault opSolveblk .nolayout 0 s
  else if !s.cfg.mskv then takeFault opSolveblk .nomask 0 s
  else if k ≥ nblocks (curRow s q) then takeFault opSolveblk .range k s
  else if s.len0.toNat ≠ 8 * dataLen (curRow s q) k then takeFault opSolveblk .length s.len0.toNat s
  else if s.len1.toNat ≠ 8 * (curRow s q).eccLen then takeFault opSolveblk .length s.len1.toNat s
  else
    match badLabel s with
    | some i => takeFault opSolveblk .label i s
    | none =>
      let sol := solveTemplate draw (blockTemplate k s q)
      .next (placeSolution (blockTemplate k s q) sol
        (writeBuf .data (dataOff (curRow s q) k) (packBytes sol.bits) s))

/-- SOLVEBLK k [, RAW]; the draw is the next value of the free value, RS_MAXLEN another (R334, R340; log entries 2, 5). -/
def execSolveblk (k : Nat) (raw : Bool) (s : State) : Result :=
  if raw then solveRaw Config.rsMaxLen (Config.draw s.draws) k s else solveLayoutBlock (Config.draw s.draws) k s

end Sys2Proof.Machine
end

