-- ==== Sys2Proof/Machine/Dispatch.lean ====
section
/-! DEFINITION. The meaning of every command, one arm per constructor of Instr (spec/30_encoding.md R94). -/

namespace Sys2Proof.Machine

def exec (i : Instr) (s : State) : Host.Outcome State Fault Refusal :=
  match i with
  | .nop => Sys2Proof.Machine.execNop s
  | .clrf => Sys2Proof.Machine.execClrf s
  | .gfadd a b => Sys2Proof.Machine.execGfadd a b s
  | .gfmul a b => Sys2Proof.Machine.execGfmul a b s
  | .gfexp i' => Sys2Proof.Machine.execGfexp i' s
  | .gflog a => Sys2Proof.Machine.execGflog a s
  | .gfrow c => Sys2Proof.Machine.execGfrow c s
  | .gfgen d => Sys2Proof.Machine.execGfgen d s
  | .rsenc len eccLen => Sys2Proof.Machine.execRsenc len eccLen s
  | .rsbit bitPosition byteExponent eccLen => Sys2Proof.Machine.execRsbit bitPosition byteExponent eccLen s
  | .layout version ecLevel => Sys2Proof.Machine.execLayout version ecLevel s
  | .setmask maskVersion => Sys2Proof.Machine.execSetmask maskVersion s
  | .cell x y => Sys2Proof.Machine.execCell x y s
  | .maskbit x y => Sys2Proof.Machine.execMaskbit x y s
  | .fmtinfo => Sys2Proof.Machine.execFmtinfo s
  | .verinfo => Sys2Proof.Machine.execVerinfo s
  | .blkinfo k => Sys2Proof.Machine.execBlkinfo k s
  | .capinfo => Sys2Proof.Machine.execCapinfo s
  | .enc ecLevel mode => Sys2Proof.Machine.execEnc ecLevel mode s
  | .encv version ecLevel mode => Sys2Proof.Machine.execEncv version ecLevel mode s
  | .solveblk k raw => Sys2Proof.Machine.execSolveblk k raw s
  | .build => Sys2Proof.Machine.execBuild s
  | .assemble => Sys2Proof.Machine.execAssemble s
  | .get x y => Sys2Proof.Machine.execGet x y s
  | .size => Sys2Proof.Machine.execSize s

end Sys2Proof.Machine
end

