-- ==== Sys2Proof/Machine/HostPort.lean ====
section
/-! DEFINITION. The host port: the four host accesses, the issue of a command, reset as an event, and the host's next action
performed (spec/20_memory.md R61, R64, R65; spec/40_control.md R120; spec/70_reset_and_hazards.md R450). -/

namespace Sys2Proof.Machine

/-- `RegRead(i)`: CMD and the reserved indices read 0; LEN0, LEN1 and BLEN are zero-extended (R21 to R27). -/
def readReg (i : Fin 16) (s : State) : Word :=
  if i = 1 then s.status.word
  else if i = 2 then s.r0
  else if i = 3 then s.r1
  else if i = 4 then s.r2
  else if i = 5 then s.len0.setWidth 32
  else if i = 6 then s.len1.setWidth 32
  else if i = 7 then s.blen.setWidth 32
  else if i = 8 then s.cfg.word
  else 0

/-- `RegWrite(i, v)` for an index other than CMD: LEN0, LEN1 and BLEN store `v[15:0]`; a write of a read-only or reserved
register is ignored (R21, R25, R26, R408). -/
def writeReg (i : Fin 16) (v : Word) (s : State) : State :=
  if i = 5 then { s with len0 := v.setWidth 16 }
  else if i = 6 then { s with len1 := v.setWidth 16 }
  else if i = 7 then { s with blen := v.setWidth 16 }
  else s

/-- `MemRead(a, 1)`: a reserved address reads 0 (R65). -/
def hostMemRead (a : BitVec 16) (s : State) : Byte := if mapped a.toNat then readByte s a.toNat else 0

/-- `MemWrite(a, 1, v)`: a write of a reserved address is ignored (R65). -/
def hostMemWrite (a : BitVec 16) (v : Byte) (s : State) : State :=
  if mapped a.toNat then { s with mem := s.mem.write a.toNat v } else s

/-- The command word CLRF, the one command that runs while a fault is recorded (R120, R122). -/
def clrfWord : Word := 0x00000001

/-- The write of `w` to CMD, one atomic step: while a fault is recorded every word but CLRF is dropped undecoded; else an
illegal word raises E_ILLCMD with FINFO `w[15:0]` and a command runs (R95, R120). -/
def issueCommand (w : Word) (s : State) : Result :=
  if faultRecorded s then
    if w = clrfWord then exec .clrf s else .next s
  else
    match decode w with
    | .ok i => exec i s
    | .error _ => takeFault (fieldOp w) .illcmd (w.toNat % 2 ^ 16) s

/-- Reset: the state of R50 to R53. The host's remaining actions and what it has read are not the unit's and stay, and
what unwritten stores hold is open anew (R450; log entries 1, 2, 3). -/
def resetUnit (s : State) : State :=
  { State.reset with draws := s.draws, resets := s.resets + 1, pending := s.pending, replies := s.replies }

/-- What a host read returned is recorded for the host; the unit is unchanged (R64). -/
def answer (r : Reply) (s : State) : State := { s with replies := s.replies ++ [r] }

/-- One action of the host (R61, R450). -/
def perform (act : HostAction) (s : State) : Result :=
  match act with
  | .regRead i => .next (answer (.reg (readReg i s)) s)
  | .regWrite i v => if i = 0 then issueCommand v s else .next (writeReg i v s)
  | .memRead a => .next (answer (.byte (hostMemRead a s)) s)
  | .memWrite a v => .next (hostMemWrite a v s)
  | .reset => .next (resetUnit s)

/-- The next action taken from the queue and performed; with none waiting the unit does nothing (R20). -/
def performNext (s : State) : Result :=
  match s.pending with
  | [] => .next s
  | act :: rest => perform act { s with pending := rest }

/-- The issue of a command word put before the host's other actions (log entry 4). -/
def enqueueCommand (w : Word) (s : State) : State := { s with pending := .regWrite 0 w :: s.pending }

end Sys2Proof.Machine
end

