-- ==== Sys2Proof/Machine/Step.lean ====
section
/-! DEFINITION. One step of the machine: the host's next action, a command being one atomic step (spec/10_state.md R20). -/

namespace Sys2Proof.Machine

/-- One step (R20, R68). -/
def step (s : State) : Host.Outcome State Fault Refusal := performNext s

/-- The state whose next step issues the word `w`, of which `nbits` bits are given and the rest are 0. The unit fetches
nothing: a program is the host's order of CMD writes (R29, R71; log entry 4). -/
def State.withFetchWord (s : State) (nbits w : Nat) : State := enqueueCommand (word (w % 2 ^ nbits)) s

end Sys2Proof.Machine
end

