-- ==== Sys2Proof/Safety.lean ====
section
/-! DEFINITION. What holds of every state the unit can be in: the invariant that every step keeps. -/

namespace Sys2Proof.Machine

/-- What the rules promise of every state.
BUF's content has its canonical form and lists buffer addresses only (R51, R65).
A recorded fault has one of the codes 0x01 to 0x10, never that of E_ASSERT (R402, R405), and FOP and FINFO are 0 when FAULT
is (R23).
A current layout has a version from 1 to 40 (R220), and with none VER and ECL are 0 and no grid is valid (R27).
MSK is 0 until a mask version is selected (R27, R50).
An assembled grid belongs to a current layout and a selected mask and holds all its side*side bits (R27, R42); GRID holds
at most 177*177 bits (R42). -/
structure State.Inv (s : State) : Prop where
  mem_wf : s.mem.wf = true
  fault_code : s.status.fault.toNat ≤ 0x10 ∧ s.status.fault ≠ 0x0F
  fault_none : s.status.fault = 0 → s.status.fop = 0 ∧ s.status.finfo = 0
  layout_some : s.cfg.layv = true → 1 ≤ curVersion s ∧ curVersion s ≤ Config.maxVersion
  layout_none : s.cfg.layv = false → curVersion s = 0 ∧ s.cfg.ecl = .L ∧ s.cfg.gridv = false
  mask_none : s.cfg.mskv = false → curMask s = 0
  grid_some : s.cfg.gridv = true → s.cfg.mskv = true ∧ curSide s * curSide s ≤ s.grid.length
  grid_size : s.grid.length ≤ 177 * 177

end Sys2Proof.Machine
end

