-- ==== Sys2Proof/Certificates/Slice0/Obligations.lean ====
section
/-! DEFINITION. The statements for the provers, each one what a rule of spec/ says an instruction or the machine does, and
the notions they are stated with: polynomials over GF(2^8) written without the tables of R132 and R133, a reader of the bit
stream of R284, the stores R67 lists for each command. -/

namespace Sys2Proof.Claims

open Sys2Proof.Machine

/-! Command words and recorded faults. -/

/-- The word with the given fields (R91). -/
def commandWord (op a b c : Byte) : Word := c ++ b ++ a ++ op

/-- The state after a fault, written with the numbers of R402: nothing but STATUS has changed (R404). -/
def faulted (code op : Byte) (info : Nat) (s : State) : State := { s with status := ⟨code, op, BitVec.ofNat 16 info⟩ }

/-! GF(2^8) as polynomials modulo POLY (R130), without the tables. -/

/-- The product of two bytes as polynomials over GF(2) modulo POLY: from the highest coefficient of `b` down, the
accumulator is multiplied by x and `a` is added where the coefficient is 1 (R130). -/
def polyMulMod (a b : Byte) : Byte :=
  (List.range 8).reverse.foldl (fun acc i => xtime acc ^^^ (if b.getLsbD i then a else 0)) 0

/-- `ALPHA^i`, x multiplied i times (R131). -/
def alphaPow (i : Nat) : Byte := Nat.iterate xtime i 1

/-- The value at `x` of the polynomial with the given coefficients, highest power first (R13). -/
def evalPoly (p : List Byte) (x : Byte) : Byte := p.foldl (fun acc c => polyMulMod acc x ^^^ c) 0

/-- The value at `x` of the generator polynomial of degree d, `product for i < d of (x + ALPHA^i)` (R137). -/
def generatorAt (d : Nat) (x : Byte) : Byte :=
  (List.range d).foldl (fun acc i => polyMulMod acc (x ^^^ alphaPow i)) 1

/-- The bytes are a codeword of the code with redundancy e: the generator polynomial of degree e divides them, since every
one of its roots `ALPHA^0 .. ALPHA^(e-1)` is a root of theirs (R160). -/
def IsCodeword (bytes : List Byte) (e : Nat) : Prop := ∀ i, i < e → evalPoly bytes (alphaPow i) = 0

/-- Byte by byte xor of two messages. -/
def xorBytes (m1 m2 : List Byte) : List Byte := List.zipWith (fun a b => a ^^^ b) m1 m2

/-- `(n, e)` is a supported pair under a choice of RS_MAXLEN (R163). -/
def Supported (chosen : Nat → Nat) (n e : Nat) : Prop := 1 ≤ e ∧ e ≤ 30 ∧ 1 ≤ n ∧ n ≤ rsMaxLen chosen e

/-! Bytes of BUF, at the addresses of R40. -/

/-- The address is in a range. -/
def inRange (a : Nat) (r : Nat × Nat) : Prop := r.1 ≤ a ∧ a < r.1 + r.2

/-- `n` bytes from an address on. -/
def bytesAt (s : State) (a n : Nat) : List Byte := (List.range n).map fun i => readByte s (a + i)

/-- Bit j of the codewords from an address on, in stream order (R11, R321). -/
def bitAt (s : State) (a j : Nat) : Bool := (readByte s (a + j / 8)).getLsbD (7 - j % 8)

/-- What RSENC len, e does in a state, `run` being the command under the choice of RS_MAXLEN: the fault of an unsupported
pair, else the redundancy in ECC, e in R0, and nothing else changed (R164, R170). -/
def RsencDoes (chosen : Nat → Nat) (len e : Nat) (run : State → Result) (s : State) : Prop :=
  (¬ Supported chosen len e → run s = .next (faulted 0x0A 0x20 (len ||| e <<< 8) s)) ∧
  (Supported chosen len e → ∃ t, run s = .next t ∧ { t with mem := s.mem, r0 := s.r0 } = s ∧ t.r0 = BitVec.ofNat 32 e ∧
    IsCodeword (bytesAt s 0x5000 len ++ bytesAt t 0x5100 e) e ∧ ∀ a, ¬ inRange a (0x5100, e) → readByte t a = readByte s a)

/-- What RSBIT b, p, e does in a state, `run` being the command under the choice of RS_MAXLEN: E_RANGE, then E_RSUNSUP, else
the redundancy of the one set bit in ECC, e in R0, and nothing else changed (R171). -/
def RsbitDoes (chosen : Nat → Nat) (b p e : Nat) (run : State → Result) (s : State) : Prop :=
  (7 < b → run s = .next (faulted 0x0B 0x21 b s)) ∧
  (b ≤ 7 → (e < 1 ∨ 30 < e ∨ rsMaxLen chosen e < p + 1) → run s = .next (faulted 0x0A 0x21 ((p + 1) ||| e <<< 8) s)) ∧
  (b ≤ 7 → 1 ≤ e → e ≤ 30 → p + 1 ≤ rsMaxLen chosen e →
    ∃ t, run s = .next t ∧ { t with mem := s.mem, r0 := s.r0 } = s ∧ t.r0 = BitVec.ofNat 32 e ∧
      IsCodeword (BitVec.twoPow 8 b :: List.replicate p 0 ++ bytesAt t 0x5100 e) e ∧
      ∀ a, ¬ inRange a (0x5100, e) → readByte t a = readByte s a)

/-! What R67 lists. -/

/-- The number of bytes ENC writes to BITS: the data capacity of the version it selects (R288). -/
def encBytes (ecLevel mode : Nat) (s : State) : Nat :=
  match levelOf? ecLevel, modeOf? mode with
  | some l, some m =>
    match selectVersion l m (payloadOf s) with
    | some (v, _, _) => dataTotal (blockRow v l)
    | none => 0
  | _, _ => 0

/-- The number of bytes ENCV writes to BITS (R288). -/
def encvBytes (version ecLevel : Nat) : Nat :=
  match levelOf? ecLevel with
  | some l => dataTotal (blockRow version l)
  | none => 0

/-- The ranges of BUF a command stores to, each a first address and a number of bytes (R67). -/
def stored (s : State) : Instr → List (Nat × Nat)
  | .gfrow _ => [(0x5200, 256)]
  | .gfgen d => [(0x5200, d)]
  | .rsenc _ eccLen => [(0x5100, eccLen)]
  | .rsbit _ _ eccLen => [(0x5100, eccLen)]
  | .enc ecLevel mode => [(0x2000, encBytes ecLevel mode s)]
  | .encv version ecLevel _ => [(0x2000, encvBytes version ecLevel)]
  | .solveblk k raw =>
    [(0x5C00, s.len0.toNat), (0x5100, s.len1.toNat / 8)]
      ++ (if raw then [] else [(0x3000 + dataOff (curRow s) k, dataLen (curRow s) k)])
  | .build => [(0x3000, dataTotal (curRow s)), (0x4000, eccTotal (curRow s))]
  | .assemble => [(0x4000, eccTotal (curRow s))]
  | _ => []

/-- The ranges of BUF a command reads (R67). -/
def readRanges (s : State) : Instr → List (Nat × Nat)
  | .rsenc len _ => [(0x5000, len)]
  | .enc _ _ => [(0x0000, s.len0.toNat)]
  | .encv _ _ _ => [(0x0000, s.len0.toNat)]
  | .solveblk _ _ => [(0x5400, s.len0.toNat), (0x5800, s.len1.toNat)]
  | .build => [(0x2000, dataTotal (curRow s))]
  | .assemble => [(0x3000, dataTotal (curRow s))]
  | _ => []

/-- The commands that write R0 (R67). -/
def writesR0 : Instr → Bool
  | .nop => false
  | .clrf => false
  | .gfrow _ => false
  | .layout _ _ => false
  | .setmask _ => false
  | _ => true

/-- The commands that write R1 and R2 (R67 and the rules it names). -/
def writesR12 : Instr → Bool
  | .cell _ _ => true
  | .blkinfo _ => true
  | .capinfo => true
  | .enc _ _ => true
  | .encv _ _ _ => true
  | .solveblk _ _ => true
  | _ => false

/-- The commands that write BLEN (R26). -/
def writesBlen : Instr → Bool
  | .enc _ _ => true
  | .encv _ _ _ => true
  | _ => false

/-- LAYOUT, which writes VER, ECL, LAYV and GRIDV (R27). -/
def isLayout : Instr → Bool
  | .layout _ _ => true
  | _ => false

/-- SETMASK, which writes MSK and MSKV (R27). -/
def isSetmask : Instr → Bool
  | .setmask _ => true
  | _ => false

/-- BUILD and ASSEMBLE, which write GRID and GRIDV (R27, R67). -/
def writesGrid : Instr → Bool
  | .build => true
  | .assemble => true
  | _ => false

/-- SOLVEBLK, which alone takes a draw (R377, R334). -/
def isSolveblk : Instr → Bool
  | .solveblk _ _ => true
  | _ => false

/-- The commands that read CFG (R67). Raw SOLVEBLK reads no layout (R340). -/
def readsCfg : Instr → Bool
  | .cell _ _ => true
  | .maskbit _ _ => true
  | .fmtinfo => true
  | .verinfo => true
  | .blkinfo _ => true
  | .capinfo => true
  | .solveblk _ raw => !raw
  | .build => true
  | .assemble => true
  | .get _ _ => true
  | .size => true
  | _ => false

/-- The commands that read LEN0 (R67). -/
def readsLen0 : Instr → Bool
  | .enc _ _ => true
  | .encv _ _ _ => true
  | .solveblk _ _ => true
  | _ => false

/-- Two states agree on all that R67 lets the command read; for SOLVEBLK also on the draw it takes, for GET on GRID. -/
structure ReadsAgree (i : Instr) (s s' : State) : Prop where
  status : s.status = s'.status
  cfg : readsCfg i = true → s.cfg = s'.cfg
  len0 : readsLen0 i = true → s.len0 = s'.len0
  len1 : isSolveblk i = true → s.len1 = s'.len1
  blen : i = .build → s.blen = s'.blen
  draw : isSolveblk i = true → s.draws = s'.draws
  bytes : ∀ r ∈ readRanges s i, ∀ a, inRange a r → readByte s a = readByte s' a
  grid : ∀ x y, i = .get x y → ∀ n, gridBit s n = gridBit s' n

/-- Two states agree on all that R67 lets the command write when it completes; `s` is the state before. -/
structure WritesAgree (i : Instr) (s t t' : State) : Prop where
  r0 : writesR0 i = true → t.r0 = t'.r0
  r12 : writesR12 i = true → t.r1 = t'.r1 ∧ t.r2 = t'.r2
  blen : writesBlen i = true → t.blen = t'.blen
  layout : isLayout i = true → t.cfg.ver = t'.cfg.ver ∧ t.cfg.ecl = t'.cfg.ecl ∧ t.cfg.layv = t'.cfg.layv ∧ t.cfg.gridv = t'.cfg.gridv
  mask : isSetmask i = true → t.cfg.msk = t'.cfg.msk ∧ t.cfg.mskv = t'.cfg.mskv
  grid : writesGrid i = true → t.cfg.gridv = t'.cfg.gridv ∧ ∀ n, n < curSide s * curSide s → gridBit t n = gridBit t' n
  bytes : ∀ r ∈ stored s i, ∀ a, inRange a r → readByte t a = readByte t' a

/-! The layout, read through CELL. -/

/-- A layout is current (R27); its version is one of the forty, which holds of every state the unit can be in (R220, the
invariant of Sys2Proof/Safety.lean). -/
def HasLayout (s : State) : Prop := s.cfg.layv = true ∧ 1 ≤ curVersion s ∧ curVersion s ≤ 40

/-- The top-left cells of the three finder blocks (R197). -/
def finderCorners (s : State) : List (Nat × Nat) := [(0, 0), (curSide s - 7, 0), (0, curSide s - 7)]

/-- What CELL leaves for a cell of type code `code` with the given R1 and R2. -/
def cellResult (code r1 r2 : Nat) (s : State) : State :=
  { s with r0 := BitVec.ofNat 32 code, r1 := BitVec.ofNat 32 r1, r2 := BitVec.ofNat 32 r2 }

/-- The distance of two offsets. -/
def apart (a b : Nat) : Nat := max a b - min a b

/-- An alignment pattern's centre: both coordinates in ALIGN_TABLE, and none of the three excluded pairs (R199). -/
def IsAlignmentCentre (s : State) (cx cy : Nat) : Prop :=
  cx ∈ alignCoords (curVersion s) ∧ cy ∈ alignCoords (curVersion s) ∧ (cx, cy) ≠ (6, 6) ∧ (cx, cy) ≠ (curSide s - 7, 6) ∧
    (cx, cy) ≠ (6, curSide s - 7)

/-- The cell lies in the 5 by 5 block of an alignment pattern (R199). -/
def InAlignment (s : State) (x y : Nat) : Prop := ∃ cx cy, IsAlignmentCentre s cx cy ∧ apart x cx ≤ 2 ∧ apart y cy ≤ 2

/-! The data walk and the codeword stream, written without the model's own (R195, R206). -/

/-- The right columns of the strips: every second one from the right edge down to 8, then 5, 3 and 1, past the timing
column 6 (R206). -/
def rightColumns (sd : Nat) : List Nat := ((List.range ((sd - 7) / 2)).map fun n => sd - 1 - 2 * n) ++ [5, 3, 1]

/-- All cells but column 6 in the order of the walk: the first strip upward and the direction changing with each, in a row
the right cell before the left (R206). -/
def zigzag (sd : Nat) : List (Nat × Nat) :=
  (rightColumns sd).zipIdx.flatMap fun strip =>
    (if strip.2 % 2 = 0 then (List.range sd).reverse else List.range sd).flatMap fun y => [(strip.1, y), (strip.1 - 1, y)]

/-- CELL names the cell Data, Ecc or Padding. -/
def isWalked (s : State) (c : Nat × Nat) : Bool :=
  match exec (.cell c.1 c.2) s with
  | .next t => decide (t.r0 = 7 ∨ t.r0 = 8 ∨ t.r0 = 9)
  | .fault _ => false
  | .refused _ => false

/-- The Data, Ecc and Padding cells in the order of the walk (R206). -/
def walkedCells (s : State) : List (Nat × Nat) := (zigzag (curSide s)).filter (isWalked s)

/-- The numbers of data codewords of the blocks, the shorter blocks first (R192). -/
def blockLengths (r : BlockRow) : List Nat := List.replicate r.blocks1 r.len1 ++ List.replicate r.blocks2 (r.len1 + 1)

/-- CW, each entry with the type code of its cells: column i of every block longer than i, blocks in order, then the ecc
columns of all blocks (R193, R195). -/
def codewordEntries (r : BlockRow) : List (Nat × Nat × Nat) :=
  ((List.range (r.len1 + 1)).flatMap fun i =>
    ((blockLengths r).zipIdx.filter fun b => i < b.1).map fun b => (7, b.2, i)) ++
  (List.range r.eccLen).flatMap fun i => (List.range (r.blocks1 + r.blocks2)).map fun k => (8, k, i)

/-- What CAPINFO and BLKINFO answer in a state for a row of BLOCK_TABLE of `words` codewords: the number of blocks and the
data capacity, and for each block its length and where it begins (R192, R226, R227). -/
def BlocksAre (r : BlockRow) (words : Nat) (capinfo : Result) (blkinfo : Nat → Result) (s : State) : Prop :=
  ∃ n total, capinfo = .next (cellResult n total words s) ∧ n = r.blocks1 + r.blocks2 ∧ total + n * r.eccLen = words ∧
    ∃ off : Nat → Nat, off 0 = 0 ∧ off n = total ∧
      ∀ k, k < n → ∃ len, blkinfo k = .next (cellResult len r.eccLen (off k) s) ∧
        off (k + 1) = off k + len ∧ len = r.len1 + (if k < r.blocks1 then 0 else 1)

/-- The mask predicates of R213, x the column and y the row. -/
def MaskHolds : Nat → Nat → Nat → Prop
  | 0, x, y => (x + y) % 2 = 0
  | 1, _, y => y % 2 = 0
  | 2, x, _ => x % 3 = 0
  | 3, x, y => (x + y) % 3 = 0
  | 4, x, y => (y / 2 + x / 3) % 2 = 0
  | 5, x, y => (x * y) % 2 + (x * y) % 3 = 0
  | 6, x, y => ((x * y) % 2 + (x * y) % 3) % 2 = 0
  | 7, x, y => ((x + y) % 2 + (x * y) % 3) % 2 = 0
  | _, _, _ => False

/-- The 32 format words as R217 prints them, level L, M, Q, H by row and mask by column. -/
def formatWords : List (List Nat) :=
  [[0x77C4, 0x72F3, 0x7DAA, 0x789D, 0x662F, 0x6318, 0x6C41, 0x6976],
   [0x5412, 0x5125, 0x5E7C, 0x5B4B, 0x45F9, 0x40CE, 0x4F97, 0x4AA0],
   [0x355F, 0x3068, 0x3F31, 0x3A06, 0x24B4, 0x2183, 0x2EDA, 0x2BED],
   [0x1689, 0x13BE, 0x1CE7, 0x19D0, 0x0762, 0x0255, 0x0D0C, 0x083B]]

/-- The 34 version words as R219 prints them, version 7 first. -/
def versionWords : List Nat :=
  [0x07C94, 0x085BC, 0x09A99, 0x0A4D3, 0x0BBF6, 0x0C762, 0x0D847, 0x0E60D, 0x0F928,
   0x10B78, 0x1145D, 0x12A17, 0x13532, 0x149A6, 0x15683, 0x168C9, 0x177EC, 0x18EC4,
   0x191E1, 0x1AFAB, 0x1B08E, 0x1CC1A, 0x1D33F, 0x1ED75, 0x1F250, 0x209D5, 0x216F0,
   0x228BA, 0x2379F, 0x24B0B, 0x2542E, 0x26A64, 0x27541, 0x28C69]

/-! The bit stream, read back (R284). -/

/-- The alphabet of R271 as one string in value order. -/
def alphabet : List Nat := "0123456789ABCDEFGHIJKLMNOPQRSTUVWXYZ $%*+-./:".toList.map Char.toNat

/-- A mode carries a byte: Auto and Byte any, Numeric the digits, Alphanumeric the alphabet (R270 to R272, R283). -/
def modeCarries (mode : Nat) (b : Byte) : Prop :=
  (mode = 1 → 0x30 ≤ b.toNat ∧ b.toNat ≤ 0x39) ∧ (mode = 2 → b.toNat ∈ alphabet)

/-- The payload, `PAY[0 .. LEN0-1]` (R290). -/
def payload (s : State) : List Byte := bytesAt s 0x0000 s.len0.toNat

/-- The number a field of bits spells, most significant bit first (R11). -/
def fieldNumber (bits : List Bool) : Nat := bits.foldl (fun n b => 2 * n + b.toNat) 0

/-- A field of the given width off the front of a stream. -/
def readField (width : Nat) (bits : List Bool) : Option (Nat × List Bool) :=
  if bits.length < width then none else some (fieldNumber (bits.take width), bits.drop width)

/-- The ASCII byte of a digit. -/
def digit (n : Nat) : Byte := BitVec.ofNat 8 (0x30 + n % 10)

/-- `n` digits: groups of three in 10 bits, a last two in 7 bits, a last one in 4 (R284). -/
def readDigits : Nat → List Bool → Option (List Byte × List Bool)
  | 0, bits => some ([], bits)
  | 1, bits => (readField 4 bits).map fun f => ([digit f.1], f.2)
  | 2, bits => (readField 7 bits).map fun f => ([digit (f.1 / 10), digit f.1], f.2)
  | n + 3, bits =>
    (readField 10 bits).bind fun f =>
      (readDigits n f.2).map fun g => (digit (f.1 / 100) :: digit (f.1 / 10) :: digit f.1 :: g.1, g.2)

/-- The byte of a value of the alphabet (R271). -/
def letter (n : Nat) : Byte := BitVec.ofNat 8 (alphabet.getD n 0)

/-- `n` characters: pairs in 11 bits, a last one in 6 (R284). -/
def readLetters : Nat → List Bool → Option (List Byte × List Bool)
  | 0, bits => some ([], bits)
  | 1, bits => (readField 6 bits).map fun f => ([letter f.1], f.2)
  | n + 2, bits =>
    (readField 11 bits).bind fun f =>
      (readLetters n f.2).map fun g => (letter (f.1 / 45) :: letter (f.1 % 45) :: g.1, g.2)

/-- `n` bytes of 8 bits each (R284). -/
def readOctets : Nat → List Bool → Option (List Byte × List Bool)
  | 0, bits => some ([], bits)
  | n + 1, bits =>
    (readField 8 bits).bind fun f => (readOctets n f.2).map fun g => (BitVec.ofNat 8 f.1 :: g.1, g.2)

/-- The width of a length field by version, for the types with mode indicators 1, 2 and 4 (R274, R276). -/
def lengthWidth (version indicator : Nat) : Nat :=
  match indicator with
  | 1 => if version ≤ 9 then 10 else if version ≤ 26 then 12 else 14
  | 2 => if version ≤ 9 then 9 else if version ≤ 26 then 11 else 13
  | _ => if version ≤ 9 then 8 else 16

/-- One segment off the front of a stream: mode indicator, length, characters (R275, R284). -/
def readSegment (version : Nat) (bits : List Bool) : Option (List Byte × List Bool) :=
  (readField 4 bits).bind fun f =>
    (readField (lengthWidth version f.1) f.2).bind fun g =>
      match f.1 with
      | 1 => readDigits g.1 g.2
      | 2 => readLetters g.1 g.2
      | 4 => readOctets g.1 g.2
      | _ => none

/-- A number of segments off the front of a stream: the bytes they carry and the rest of the stream (R284). -/
def readSegments (version : Nat) : Nat → List Bool → Option (List Byte × List Bool)
  | 0, bits => some ([], bits)
  | n + 1, bits =>
    (readSegment version bits).bind fun f =>
      (readSegments version n f.2).map fun g => (f.1 ++ g.1, g.2)

/-- The bits of a byte, the first in bit 7 (R11). -/
def octet (b : Byte) : List Bool := (List.range 8).map fun i => b.getLsbD (7 - i)

/-- What follows the last segment, `total` bits in a stream of `cap`. ZERO: zeros to the capacity. ISO: at most 4 zeros, zeros
to a multiple of 8, then the bytes 0xEC and 0x11 in turn (R287). -/
def FillIs (pad : PadFill) (total cap : Nat) (fill : List Bool) : Prop :=
  total + fill.length = cap ∧
  match pad with
  | .zero => ∀ b ∈ fill, b = false
  | .iso => ∃ (align : Nat) (bytes : List Byte),
    fill = List.replicate (min 4 (cap - total) + align) false ++ bytes.flatMap octet ∧ align < 8 ∧
    (total + min 4 (cap - total) + align) % 8 = 0 ∧
    ∀ j, j < bytes.length → bytes.getD j 0 = if j % 2 = 0 then 0xEC else 0x11

/-- The first BLEN bits of BITS (R26, R111). -/
def bitStream (t : State) : List Bool := (List.range t.blen.toNat).map (bitAt t 0x2000)

/-- Every segment is of a type all of its bytes allow, and the segments cover the payload (R272, R278). -/
def Covers : List Segment → List Byte → Prop
  | [], bytes => bytes = []
  | g :: gs, bytes =>
    g.len ≤ bytes.length ∧ (∀ b ∈ bytes.take g.len, allowed (classOf b) g.type = true) ∧ Covers gs (bytes.drop g.len)

/-- The bits a list of segments costs (R277). -/
def cost (t : Nat) (segs : List (CharClass × Nat)) : Nat := (segs.map fun g => hdr g.1 t + segbits g.1 g.2).sum

/-- The payload fits a version: the bits of its segmentation are within the capacity, or those of its single Byte segment
are, a mode indicator of 4, a length field of 8 or 16 and 8 bits a byte (R276, R277, R281, R286, R291). -/
def Fits (m : Mode) (v : Nat) (l : Level) (s : State) : Prop :=
  (segmentation m (payload s) (tier v)).1 ≤ 8 * dataTotal (blockRow v l) ∨
  (if v ≤ 9 then 12 else 20) + 8 * s.len0.toNat ≤ 8 * dataTotal (blockRow v l)

/-! The solver (R320 to R340). -/

/-- Label byte i of TD (R43). -/
def tdLabel (s : State) (i : Nat) : Byte := readByte s (0x5400 + i)

/-- Label byte j of TE (R43). -/
def teLabel (s : State) (j : Nat) : Byte := readByte s (0x5800 + j)

/-- Bits 7:2 of a label byte are 0 (R43, R322). -/
def Legal (b : Byte) : Prop := b = 0x00 ∨ b = 0x01 ∨ b = 0x02 ∨ b = 0x03

/-- Every label byte SOLVEBLK reads is legal (R322). -/
def LabelsLegal (s : State) : Prop :=
  (∀ i, i < s.len0.toNat → Legal (tdLabel s i)) ∧ ∀ j, j < s.len1.toNat → Legal (teLabel s j)

/-- The lengths the raw form takes (R322). -/
def RawLengths (s : State) : Prop :=
  s.len0.toNat % 8 = 0 ∧ 8 ≤ s.len0.toNat ∧ s.len0.toNat ≤ 1024 ∧ s.len1.toNat % 8 = 0 ∧ 8 ≤ s.len1.toNat ∧ s.len1.toNat ≤ 256

/-- `free`, the Free data bits (R331). -/
def freeBits (s : State) : List Nat := (List.range s.len0.toNat).filter fun i => (tdLabel s i).getLsbD 1

/-- `tgt`, the Target ecc bits (R324). -/
def targetBits (s : State) : List Nat := (List.range s.len1.toNat).filter fun j => (teLabel s j).getLsbD 1

/-- Data bit i alone flips ecc bit j: bit j of the single-bit contribution of i (R166, R321, R335). -/
def flips (s : State) (i j : Nat) : Bool :=
  ((sbc (7 - i % 8) (s.len0.toNat / 8 - 1 - i / 8) (s.len1.toNat / 8)).getD (j / 8) 0).getLsbD (7 - j % 8)

/-- The data bits of a set together flip ecc bit j. -/
def flipTogether (s : State) (set : List Nat) (j : Nat) : Bool := set.foldr (fun i acc => flips s i j ^^ acc) false

/-- The set is a basis of the contribution vectors of the Free bits: every Free bit flips at the targets what some of the
set flip together, and no part of the set flips nothing (R325, R335, R467). -/
def IsBasis (s : State) (set : List Nat) : Prop :=
  (∀ i ∈ freeBits s, ∃ used : List Nat, used.Sublist set ∧ ∀ j ∈ targetBits s, flips s i j = flipTogether s used j) ∧
  ∀ used : List Nat, used.Sublist set → (∀ j ∈ targetBits s, flipTogether s used j = false) → used = []

/-- The clauses of the contract that both forms share: OUT holds bits, (a) every Fixed bit keeps its value, (c) all Free
bits keep their seeds but a set that is a basis of the contributions of all Free bits and has R0 members, (d) with no target
every Free bit does, the counts R0, R1, R2, and a draw is taken when there is a target (R330, R332, R334, R335, R339, R340;
the counter of draws is log entry 2's). -/
structure Solved (s t : State) : Prop where
  out_bits : ∀ i, i < s.len0.toNat → readByte t (0x5C00 + i) = 0x00 ∨ readByte t (0x5C00 + i) = 0x01
  fixed : ∀ i, i < s.len0.toNat → i ∉ freeBits s → (readByte t (0x5C00 + i)).getLsbD 0 = (tdLabel s i).getLsbD 0
  basis : ∃ solved : List Nat, solved.Nodup ∧ (∀ i ∈ solved, i ∈ freeBits s) ∧ solved.length = t.r0.toNat ∧
    IsBasis s solved ∧
    ∀ i ∈ freeBits s, i ∉ solved → (readByte t (0x5C00 + i)).getLsbD 0 = (tdLabel s i).getLsbD 0
  no_target : targetBits s = [] → t.r0 = 0
  rank_le : t.r0.toNat ≤ (targetBits s).length
  free_count : t.r0.toNat + t.r1.toNat = (freeBits s).length
  target_count : t.r2.toNat = (targetBits s).length
  draws : t.draws = s.draws + (if targetBits s = [] then 0 else 1)

/-- Bit b of redundancy byte i of the block whose data bits are d (R160, R321). -/
def eccBit (s : State) (d : Nat → Bool) (i b : Nat) : Bool :=
  ((rs (packBytes ((List.range s.len0.toNat).map d)) (s.len1.toNat / 8)).getD i 0).getLsbD b

/-- Redundancy whose byte i has bit b equal to `ecc i b` meets every target (R321, R330). -/
def TargetsMet (s : State) (ecc : Nat → Nat → Bool) : Prop :=
  ∀ j ∈ targetBits s, ecc (j / 8) (7 - j % 8) = (teLabel s j).getLsbD 0

/-- What raw SOLVEBLK leaves: the shared clauses; ECC is the redundancy of the block OUT spells; (b) every target is met when
the rank is the number of targets, and also whenever any values of the Free bits meet them all; no DATA is written (R330,
R339, R340). -/
structure SolvedRaw (s t : State) : Prop extends Solved s t where
  ecc : IsCodeword
    (packBytes ((List.range s.len0.toNat).map fun i => (readByte t (0x5C00 + i)).getLsbD 0)
      ++ bytesAt t 0x5100 (s.len1.toNat / 8)) (s.len1.toNat / 8)
  targets : t.r0 = t.r2 → TargetsMet s fun i b => (readByte t (0x5100 + i)).getLsbD b
  possible : ∀ d : Nat → Bool, (∀ i, i < s.len0.toNat → i ∉ freeBits s → d i = (tdLabel s i).getLsbD 0) →
    TargetsMet s (eccBit s d) → TargetsMet s fun i b => (readByte t (0x5100 + i)).getLsbD b
  no_data : ∀ a, 0x3000 ≤ a → a < 0x4000 → readByte t a = readByte s a

/-- The module of every Fixed data bit of block k, d being the block's data bits, renders its label's value (R323, R330). -/
def FixedRender (k : Nat) (s : State) (d : Nat → Bool) : Prop :=
  ∀ x y cw bit i, x < curSide s → y < curSide s → curCell s x y = .data cw bit k i → 8 * i + (7 - bit) ∉ freeBits s →
    (d (8 * i + (7 - bit)) ^^ maskArr (curVersion s) s.cfg.ecl (curMask s) x y) = (tdLabel s (8 * i + (7 - bit))).getLsbD 0

/-- The module of every target of block k, the block's redundancy bits being `ecc i b`, renders its label's value (R323,
R330). -/
def TargetsRender (k : Nat) (s : State) (ecc : Nat → Nat → Bool) : Prop :=
  ∀ x y cw bit i, x < curSide s → y < curSide s → curCell s x y = .ecc cw bit k i → 8 * i + (7 - bit) ∈ targetBits s →
    (ecc i bit ^^ maskArr (curVersion s) s.cfg.ecl (curMask s) x y) = (teLabel s (8 * i + (7 - bit))).getLsbD 0

/-- What SOLVEBLK k leaves: the shared clauses; block k of DATA and ECC are a codeword; each bit of OUT is the rendered
value of the module that carries the bit; and (b) each target's module renders the declared value when the rank is the number
of targets, and also whenever any values of the Free bits make them all do so (R323, R330, R339, R340). -/
structure SolvedBlock (k : Nat) (s t : State) : Prop extends Solved s t where
  ecc : IsCodeword
    (bytesAt t (0x3000 + dataOff (curRow s) k) (dataLen (curRow s) k) ++ bytesAt t 0x5100 (curRow s).eccLen) (curRow s).eccLen
  data_modules : ∀ x y cw bit i, x < curSide s → y < curSide s → curCell s x y = .data cw bit k i →
    (readByte t (0x5C00 + (8 * i + (7 - bit)))).getLsbD 0 =
      ((readByte t (0x3000 + dataOff (curRow s) k + i)).getLsbD bit ^^ maskArr (curVersion s) s.cfg.ecl (curMask s) x y)
  targets : t.r0 = t.r2 → TargetsRender k s fun i b => (readByte t (0x5100 + i)).getLsbD b
  possible : ∀ d : Nat → Bool, FixedRender k s d → TargetsRender k s (eccBit s d) →
    TargetsRender k s fun i b => (readByte t (0x5100 + i)).getLsbD b

/-- The xor of the vectors of a set of identifiers (R325). -/
def xorOf (orig : Nat → SolverVec) (ids : List Nat) : SolverVec := ids.foldr (fun i acc => orig i ^^^ acc) 0

/-- The LinearSystem of R325 and R327: pivots strictly increasing, each the first set bit of its row, 0 in every other row's
pivot column, and each row the xor of the offered vectors of its combination. -/
structure Reduced (orig : Nat → SolverVec) (rows : List Row) : Prop where
  rising : rows.Pairwise fun r r' => r.pivot < r'.pivot
  first_bit : ∀ r ∈ rows, r.vec.getLsbD r.pivot = true ∧ ∀ t, t < r.pivot → r.vec.getLsbD t = false
  cleared : ∀ r ∈ rows, ∀ r' ∈ rows, r'.pivot ≠ r.pivot → r.vec.getLsbD r'.pivot = false
  set : ∀ r ∈ rows, r.comb.Nodup
  recorded : ∀ r ∈ rows, r.vec = xorOf orig r.comb

/-- A template of one block: its label lists have its lengths and its redundancy is one a generator polynomial exists for
(R320, R324). -/
def TemplateOk (p : Template) : Prop :=
  p.td.length = 8 * p.dataCw ∧ p.te.length = 8 * p.eccCw ∧ 1 ≤ p.dataCw ∧ 1 ≤ p.eccCw ∧ p.eccCw ≤ Config.genMax

/-! The assembler (R370 to R376). -/

/-- A layout and a mask version are selected. -/
def HasLayoutAndMask (s : State) : Prop := HasLayout s ∧ s.cfg.mskv = true

/-- The data codewords of block k (R192, R375). -/
def dataBlock (r : BlockRow) (data : List Byte) (k : Nat) : List Byte := (data.drop (dataOff r k)).take (dataLen r k)

/-- GRID holds MATRIX of R370 for the data codewords given, as GET, CELL, MASKBIT, FMTINFO and VERINFO show it in the state
`t`: fixed patterns as the layout holds them, the information words, 0 under the mask in Padding, and every Data and Ecc
module, its mask bit taken off, the bit at its codeword address. -/
def RendersModules (data : List Byte) (t : State) : Prop :=
  ∀ x y, x < curSide t → y < curSide t →
    ∃ module maskbit fmt ver tc,
      exec (.get x y) t = .next { t with r0 := (BitVec.ofBool module).setWidth 32 } ∧
      exec (.maskbit x y) t = .next { t with r0 := (BitVec.ofBool maskbit).setWidth 32 } ∧
      exec .fmtinfo t = .next { t with r0 := fmt } ∧ exec .verinfo t = .next { t with r0 := ver } ∧
      exec (.cell x y) t = .next tc ∧
      (tc.r0.toNat ≤ 4 → module = tc.r1.getLsbD 0) ∧
      (tc.r0 = 5 → module = fmt.getLsbD tc.r1.toNat) ∧
      (tc.r0 = 6 → module = ver.getLsbD tc.r1.toNat) ∧
      (tc.r0 = 7 → (module ^^ maskbit) =
        ((dataBlock (curRow t) data (tc.r2.extractLsb' 8 8).toNat).getD (tc.r2.extractLsb' 16 16).toNat 0).getLsbD
          (tc.r2.extractLsb' 0 8).toNat) ∧
      (tc.r0 = 8 → (module ^^ maskbit) =
        ((rs (dataBlock (curRow t) data (tc.r2.extractLsb' 8 8).toNat) (curRow t).eccLen).getD
          (tc.r2.extractLsb' 16 16).toNat 0).getLsbD (tc.r2.extractLsb' 0 8).toNat) ∧
      (tc.r0 = 9 → module = maskbit)

/-- Every block of DATA with its part of ECCW is a codeword, the blocks those of the given tables (R375). -/
def BlocksAreCodewords (t : State) (q : QrTables := printedTables) : Prop :=
  ∀ k, k < nblocks (curRow t q) → IsCodeword
    (bytesAt t (0x3000 + dataOff (curRow t q) k) (dataLen (curRow t q) k)
      ++ bytesAt t (0x4000 + k * (curRow t q).eccLen) (curRow t q).eccLen) (curRow t q).eccLen

/-- What BUILD does in a state whose bit stream fills the layout, `build` being its outcome under the given tables: DATA takes
BITS, every block of DATA and ECCW is a codeword (R375), R0 is the side, GRIDV is set, and the frame of R67 holds (R371). -/
def BuildDoes (q : QrTables) (build : Result) (s : State) : Prop :=
  ∃ t, build = .next t ∧
    { t with mem := s.mem, grid := s.grid } = { s with r0 := BitVec.ofNat 32 (curSide s), cfg := { s.cfg with gridv := true } } ∧
    bytesAt t 0x3000 (dataTotal (curRow s q)) = bytesAt s 0x2000 (dataTotal (curRow s q)) ∧ BlocksAreCodewords t q ∧
    ∀ a, ¬ inRange a (0x3000, dataTotal (curRow s q)) → ¬ inRange a (0x4000, eccTotal (curRow s q)) →
      readByte t a = readByte s a

end Sys2Proof.Claims

section

open Sys2Proof Sys2Proof.Machine Sys2Proof.Claims

/-! Decoding. -/

/-- Decoding the word of a well-formed instruction gives it back, every operand at every value its field admits (R91, R92,
R94). -/
def Obligations.DecodeOfEncode : Prop := ∀ i : Instr, i.wellFormed = true → decode (encode i) = .ok i

/-- A word that decodes is the word of the instruction it decodes to, which is well formed: no bit of a command word is
ignored (R91, R95). -/
def Obligations.EncodeOfDecode : Prop := ∀ (w : Word) (i : Instr), decode w = .ok i → encode i = w ∧ i.wellFormed = true

/-- R95: a word that matches no row of R94 is illegal, raises E_ILLCMD with FINFO = w[15:0] and changes nothing else; every
word is either exactly one command or illegal. A word is the command of a row exactly when `w and mask = match`. -/
def Obligations.DecoderIsTheCommandTable : Prop :=
  ∀ w : Word,
    (∀ r ∈ opcodeTable, w &&& r.mask = r.pattern ↔ ∃ i, decode w = .ok i ∧ i.mnemonic = r.mnemonic) ∧
    (∀ r ∈ opcodeTable, ∀ r' ∈ opcodeTable, w &&& r.mask = r.pattern → w &&& r'.mask = r'.pattern → r = r') ∧
    ((∀ r ∈ opcodeTable, w &&& r.mask ≠ r.pattern) ↔ ∃ e, decode w = .error e) ∧
    ∀ s : State, s.status.fault = 0 → (∀ r ∈ opcodeTable, w &&& r.mask ≠ r.pattern) →
      perform (.regWrite 0 w) s = .next (faulted 0x01 (w.extractLsb' 0 8) (w.extractLsb' 0 16).toNat s)

/-- Words the spec writes out (R100 and 95_test_vectors.md), one or two a family, decode to the commands they stand for. -/
def Obligations.SpecWordsDecode : Prop :=
  decode 0x00000001 = .ok .clrf ∧ decode 0x00CA5311 = .ok (.gfmul 0x53 0xCA) ∧ decode 0x00000812 = .ok (.gfexp 8) ∧
  decode 0x000A1020 = .ok (.rsenc 16 10) ∧ decode 0x07120721 = .ok (.rsbit 7 18 7) ∧
  decode 0x00000130 = .ok (.layout 1 0) ∧ decode 0x000D0832 = .ok (.cell 8 13) ∧
  decode 0x03030141 = .ok (.encv 1 3 3) ∧ decode 0x01000050 = .ok (.solveblk 0 true) ∧
  decode 0x00080062 = .ok (.get 0 8) ∧ decode 0x00000063 = .ok .size

/-! Command issue, faults, the host port. -/

/-- A step performs the host's next action, and does nothing when none waits; when that action is the issue of a word that
decodes to `i` and no fault is recorded, the step is `exec i`. The queue is the model's own (log entry 3), and so is
`withFetchWord` (log entry 4). -/
def Obligations.StepRunsTheDecodedCommand : Prop :=
  (∀ s : State, s.pending = [] → step s = .next s) ∧
  (∀ (s : State) (act : HostAction) (rest : List HostAction), s.pending = act :: rest →
    step s = perform act { s with pending := rest }) ∧
  (∀ (s : State) (w : Word) (rest : List HostAction) (i : Instr), s.pending = .regWrite 0 w :: rest → s.status.fault = 0 →
    decode w = .ok i → step s = exec i { s with pending := rest }) ∧
  ∀ (s : State) (w : Word) (i : Instr), s.status.fault = 0 → decode w = .ok i →
    step (s.withFetchWord 32 w.toNat) = exec i s

/-- R120, the whole of the write of a word to CMD. -/
def Obligations.CommandIssue : Prop :=
  ∀ (w : Word) (s : State),
    (s.status.fault ≠ 0 → w = 0x00000001 → perform (.regWrite 0 w) s = .next { s with status := ⟨0, 0, 0⟩ }) ∧
    (s.status.fault ≠ 0 → w ≠ 0x00000001 → perform (.regWrite 0 w) s = .next s) ∧
    (s.status.fault = 0 → ∀ e, decode w = .error e →
      perform (.regWrite 0 w) s = .next (faulted 0x01 (w.extractLsb' 0 8) (w.extractLsb' 0 16).toNat s)) ∧
    (s.status.fault = 0 → ∀ i, decode w = .ok i → perform (.regWrite 0 w) s = exec i s)

/-- Every command terminates and there is no state in which the unit stops accepting commands: every command and every step
answers a next state, of every state (R401, R471; unwritten bytes are free values, log entry 1). -/
def Obligations.EveryCommandAndStepAnswersNext : Prop :=
  (∀ (i : Instr) (s : State), ∃ t, exec i s = .next t) ∧ ∀ s : State, ∃ t, step s = .next t

/-- R404: a command that changes STATUS and is not CLRF has raised a fault, whose whole effect is the write of STATUS: a
code of R402, the opcode byte of the command, the rule's value. No command raises E_ASSERT (R405). -/
def Obligations.FaultWritesStatusOnly : Prop :=
  ∀ (i : Instr) (s t : State), exec i s = .next t → t.status ≠ s.status → i ≠ .clrf →
    ∃ (code : FaultCode) (info : Nat), code ≠ .assert ∧ t = faulted code.number (fieldOp (encode i)) info s

/-- R121 and R122: NOP changes nothing; CLRF writes 0 to STATUS and runs while a fault is recorded; after a fault it gives
back the state before the faulting command. -/
def Obligations.NopAndClrf : Prop :=
  decode 0x00000000 = .ok .nop ∧ decode 0x00000001 = .ok .clrf ∧
  (∀ s : State, exec .nop s = .next s) ∧
  (∀ s : State, exec .clrf s = .next { s with status := ⟨0, 0, 0⟩ }) ∧
  (∀ s : State, perform (.regWrite 0 0x00000001) s = .next { s with status := ⟨0, 0, 0⟩ }) ∧
  ∀ (i : Instr) (s t : State), s.status = ⟨0, 0, 0⟩ → exec i s = .next t → t.status ≠ s.status →
    exec .clrf t = .next s

/-- The register images of R21 to R27: CMD and the reserved indices read 0, the fields of STATUS and CFG stand at their
bits, the reserved bits of CFG read 0, LEN0, LEN1 and BLEN are zero-extended. -/
def Obligations.RegisterImages : Prop :=
  ∀ s : State,
    readReg 0 s = 0 ∧ (∀ i : Fin 16, 9 ≤ i.val → readReg i s = 0) ∧
    (readReg 1 s).extractLsb' 0 8 = s.status.fault ∧ (readReg 1 s).extractLsb' 8 8 = s.status.fop ∧
    (readReg 1 s).extractLsb' 16 16 = s.status.finfo ∧
    readReg 2 s = s.r0 ∧ readReg 3 s = s.r1 ∧ readReg 4 s = s.r2 ∧
    (readReg 5 s).toNat = s.len0.toNat ∧ (readReg 6 s).toNat = s.len1.toNat ∧ (readReg 7 s).toNat = s.blen.toNat ∧
    (readReg 8 s).extractLsb' 0 6 = s.cfg.ver ∧ levelOf? ((readReg 8 s).extractLsb' 8 2).toNat = some s.cfg.ecl ∧
    (readReg 8 s).extractLsb' 12 3 = s.cfg.msk ∧ (readReg 8 s).getLsbD 16 = s.cfg.layv ∧
    (readReg 8 s).getLsbD 17 = s.cfg.mskv ∧ (readReg 8 s).getLsbD 18 = s.cfg.gridv ∧
    readReg 8 s &&& 0xFFF88CC0 = 0

/-- The host's register accesses (R21, R25, R26, R61, R64, R408): a write of LEN0, LEN1 or BLEN stores `v[15:0]` and a read
returns it zero-extended, a write of any other register but CMD is ignored, a read changes nothing of the unit. That a
read appends to a list of replies is log entry 3's choice. -/
def Obligations.HostRegisterAccesses : Prop :=
  ∀ (s : State) (v : Word),
    perform (.regWrite 5 v) s = .next { s with len0 := v.extractLsb' 0 16 } ∧
    perform (.regWrite 6 v) s = .next { s with len1 := v.extractLsb' 0 16 } ∧
    perform (.regWrite 7 v) s = .next { s with blen := v.extractLsb' 0 16 } ∧
    (∀ i : Fin 16, i ≠ 0 → i ≠ 5 → i ≠ 6 → i ≠ 7 → perform (.regWrite i v) s = .next s) ∧
    (∀ i : Fin 16, perform (.regRead i) s = .next { s with replies := s.replies ++ [.reg (readReg i s)] }) ∧
    (∀ (i : Fin 16) (t : State), i = 5 ∨ i = 6 ∨ i = 7 → perform (.regWrite i v) s = .next t →
      (readReg i t).toNat = v.toNat % 2 ^ 16 ∧ ∀ j : Fin 16, j ≠ i → readReg j t = readReg j s)

/-- The host's byte accesses (R61, R64, R65, R73): what was written is read back, every other address keeps its value, a
reserved address reads 0 and ignores writes, reserved registers likewise, and no command writes a reserved byte. That a read
appends to a list of replies is log entry 3's choice. -/
def Obligations.HostMemoryAndReservedAddresses : Prop :=
  (∀ (s t : State) (a : BitVec 16) (v : Byte), perform (.memWrite a v) s = .next t →
    (mapped a.toNat = true → hostMemRead a t = v) ∧
    (∀ b, b ≠ a → hostMemRead b t = hostMemRead b s) ∧
    (mapped a.toNat = false → hostMemRead a t = 0 ∧ t = s) ∧
    { t with mem := s.mem } = s) ∧
  (∀ (s : State) (a : BitVec 16), perform (.memRead a) s = .next { s with replies := s.replies ++ [.byte (hostMemRead a s)] }) ∧
  (∀ (s : State) (i : Fin 16) (v : Word), 9 ≤ i.val → readReg i s = 0 ∧ perform (.regWrite i v) s = .next s) ∧
  ∀ (i : Instr) (s t : State) (a : Nat), exec i s = .next t → mapped a = false → t.mem.read? a = s.mem.read? a

/-- R50: after reset every register reads 0, and no buffer byte and no GRID bit holds a value (R51); the reset event leads
there from every state (R450). -/
def Obligations.ResetLeaves : Prop :=
  (∀ i : Fin 16, readReg i State.reset = 0) ∧ (∀ a, State.reset.mem.read? a = none) ∧ State.reset.grid = [] ∧
  ∀ s : State, ∃ t, perform .reset s = .next t ∧ (∀ i : Fin 16, readReg i t = 0) ∧ (∀ a, t.mem.read? a = none) ∧ t.grid = []

/-! Invariant and frames. -/

/-- The invariant of Sys2Proof/Safety.lean holds after reset. -/
def Obligations.ResetSatisfiesInv : Prop := State.reset.Inv

/-- Every step keeps the invariant: BUF's content keeps its canonical form and lists buffer addresses only, STATUS holds a
code of R402 and is 0 when no fault is recorded, the version of a current layout is one of the forty, a valid grid has all
its bits (R23, R27, R42, R51, R65, R402). -/
def Obligations.StepKeepsInv : Prop := ∀ s t : State, s.Inv → step s = .next t → t.Inv

/-- A byte outside the ranges R67 lists for a command reads as before, whatever the command and its outcome: for ROW, ECC,
BITS, OUT, DATA and ECCW the ranges are computed from the operands and registers as the command's rule says. -/
def Obligations.CommandsStoreOnlyWhatTheyName : Prop :=
  ∀ (i : Instr) (s t : State) (a : Nat), exec i s = .next t → (∀ r ∈ stored s i, ¬ inRange a r) →
    readByte t a = readByte s a

/-- A register, a bit of CFG or a bit of GRID that R67 does not list for a command keeps its value; STATUS keeps its value too
but for CLRF, which clears it, and for a command that raises a fault, which writes nothing else (R24, R25, R27, R28, R67, R73,
R122, R404). The fields draws, resets, pending and replies are the model's own (log entries 1, 2, 3). -/
def Obligations.CommandsWriteOnlyTheRegistersTheyName : Prop :=
  ∀ (i : Instr) (s t : State), exec i s = .next t →
    (i = .clrf → t.status = ⟨0, 0, 0⟩) ∧
    (i ≠ .clrf → t.status = s.status ∨
      ∃ (code : FaultCode) (info : Nat), t = faulted code.number (fieldOp (encode i)) info s) ∧
    (writesR0 i = false → t.r0 = s.r0) ∧ (writesR12 i = false → t.r1 = s.r1 ∧ t.r2 = s.r2) ∧
    t.len0 = s.len0 ∧ t.len1 = s.len1 ∧ (writesBlen i = false → t.blen = s.blen) ∧
    (isLayout i = false → t.cfg.ver = s.cfg.ver ∧ t.cfg.ecl = s.cfg.ecl ∧ t.cfg.layv = s.cfg.layv) ∧
    (isSetmask i = false → t.cfg.msk = s.cfg.msk ∧ t.cfg.mskv = s.cfg.mskv) ∧
    (isLayout i = false → writesGrid i = false → t.cfg.gridv = s.cfg.gridv) ∧
    (writesGrid i = false → t.grid = s.grid) ∧
    (writesGrid i = true → ∀ n, curSide s * curSide s ≤ n → gridBit t n = gridBit s n) ∧
    (isSolveblk i = false → t.draws = s.draws) ∧
    t.resets = s.resets ∧ t.pending = s.pending ∧ t.replies = s.replies

/-- A store R67 does not list as read is not read: two states with no fault recorded that agree on what a command reads
leave the command with the same STATUS, and, when it completes, the same value in everything it writes. -/
def Obligations.CommandsReadOnlyWhatTheyName : Prop :=
  ∀ (i : Instr) (s s' t t' : State), ReadsAgree i s s' → s.status = ⟨0, 0, 0⟩ → exec i s = .next t → exec i s' = .next t' →
    t.status = t'.status ∧ (t.status = ⟨0, 0, 0⟩ → WritesAgree i s t t')

/-! GaloisField256. -/

/-- R140: GFADD leaves the xor of its operands in R0, and nothing else changes. -/
def Obligations.GfaddXors : Prop :=
  ∀ (a b : Byte), decode (commandWord 0x10 a b 0) = .ok (.gfadd a b) ∧
    ∀ s : State, exec (.gfadd a b) s = .next { s with r0 := (a ^^^ b).setWidth 32 }

/-- GFMUL leaves the product of its operands as polynomials modulo POLY in R0 (R130, R135, R141), and nothing else changes.
The meaning goes through the tables of R132 and R133, the statement does not. -/
def Obligations.GfmulIsPolynomialProduct : Prop :=
  ∀ (a b : Byte), decode (commandWord 0x11 a b 0) = .ok (.gfmul a b) ∧
    ∀ s : State, exec (.gfmul a b) s = .next { s with r0 := (polyMulMod a b).setWidth 32 }

/-- R135: the product by logarithms, and the laws a model may rely on. -/
def Obligations.FieldLaws : Prop :=
  (∀ a b : Byte, gfMul a b =
    if a = 0 ∨ b = 0 then 0 else gfExp (((gfLog a).getD 0 + (gfLog b).getD 0) % 255)) ∧
  (∀ a b : Byte, gfMul a b = gfMul b a) ∧ (∀ a b c : Byte, gfMul (gfMul a b) c = gfMul a (gfMul b c)) ∧
  (∀ a b c : Byte, gfMul a (gfAdd b c) = gfAdd (gfMul a b) (gfMul a c)) ∧ (∀ a : Byte, gfMul 1 a = a) ∧
  (∀ a b : Byte, gfMul a b = 0 ↔ a = 0 ∨ b = 0) ∧ ∀ a : Byte, gfMul 2 a = xtime a

/-- GFEXP leaves ALPHA^i in R0 for every index, i being reduced modulo 255 (R131, R132, R142). -/
def Obligations.GfexpGivesPowersOfAlpha : Prop :=
  ∀ (i : Nat) (s : State), exec (.gfexp i) s = .next { s with r0 := (alphaPow i).setWidth 32 }

/-- GFLOG leaves in R0 the one exponent below 255 whose power of ALPHA is the operand, and 0xFFFFFFFF for 0 (R133,
R143). -/
def Obligations.GflogGivesTheExponent : Prop :=
  ∀ (a : Byte) (s : State),
    (a = 0 → exec (.gflog a) s = .next { s with r0 := 0xFFFFFFFF }) ∧
    (a ≠ 0 → ∃ n, n < 255 ∧ alphaPow n = a ∧ (∀ m, m < 255 → alphaPow m = a → m = n) ∧
      exec (.gflog a) s = .next { s with r0 := BitVec.ofNat 32 n })

/-- R144: GFROW c writes `c (*) i` to ROW[i] for all 256 i, and nothing else changes. -/
def Obligations.GfrowWritesTheMultiples : Prop :=
  ∀ c : Byte, decode (commandWord 0x14 c 0 0) = .ok (.gfrow c) ∧
    ∀ s : State, ∃ t, exec (.gfrow c) s = .next t ∧ { t with mem := s.mem } = s ∧
      (∀ i, i < 256 → readByte t (0x5200 + i) = polyMulMod c (BitVec.ofNat 8 i)) ∧
      ∀ a, ¬ inRange a (0x5200, 256) → readByte t a = readByte s a

/-- R145: GFGEN d writes to ROW[0..d-1] the coefficients below the leading 1 of the product of `x + ALPHA^i` for i < d (given
by the values of both at every x: two polynomials of degree at most 30 that agree at 256 points are one), leaves d in R0, and
changes nothing else; d outside 1 to 30 raises E_RANGE. -/
def Obligations.GfgenWritesTheGeneratorPolynomial : Prop :=
  ∀ d : Byte, decode (commandWord 0x15 d 0 0) = .ok (.gfgen d.toNat) ∧
    ∀ s : State,
      (d.toNat < 1 ∨ 30 < d.toNat → exec (.gfgen d.toNat) s = .next (faulted 0x0B 0x15 d.toNat s)) ∧
      (1 ≤ d.toNat → d.toNat ≤ 30 → ∃ t, exec (.gfgen d.toNat) s = .next t ∧
        { t with mem := s.mem, r0 := s.r0 } = s ∧ t.r0 = d.setWidth 32 ∧
        (∀ x : Byte, evalPoly (1 :: bytesAt t 0x5200 d.toNat) x = generatorAt d.toNat x) ∧
        ∀ a, ¬ inRange a (0x5200, d.toNat) → readByte t a = readByte s a)

/-! ReedSolomonCodec. -/

/-- RSENC makes the message and ECC[0..e-1] a codeword: the generator polynomial of degree e divides them, which determines
the e bytes (R160); it leaves e in R0 and changes nothing else; an unsupported pair raises E_RSUNSUP (R163, R164, R170). All
this for the unit's RS_MAXLEN, which is log entry 5's free value, and for every other; under each of them the blocks of
BLOCK_TABLE are supported. Unwritten message bytes are log entry 1's free values. -/
def Obligations.RsencMakesCodewords : Prop :=
  (∀ (len eccLen : Nat) (s : State), RsencDoes Config.rsMaxLen len eccLen (exec (.rsenc len eccLen)) s ∧
    ∀ chosen : Nat → Nat, RsencDoes chosen len eccLen (rsencWithin chosen len eccLen) s) ∧
  ∀ (chosen : Nat → Nat) (v : Nat) (l : Level) (k : Nat), 1 ≤ v → v ≤ 40 → k < nblocks (blockRow v l) →
    Supported chosen (dataLen (blockRow v l) k) (blockRow v l).eccLen

/-- R171: RSBIT writes to ECC[0..e-1] the redundancy of the message of one set bit (R166), leaves e in R0 and changes
nothing else; a bit position above 7 raises E_RANGE, checked first, then an unsupported pair E_RSUNSUP; for the unit's
RS_MAXLEN, which is log entry 5's free value, and for every other. -/
def Obligations.RsbitGivesTheSingleBitContribution : Prop :=
  ∀ a b c : Byte, decode (commandWord 0x21 a b c) = .ok (.rsbit a.toNat b.toNat c.toNat) ∧
    ∀ s : State, RsbitDoes Config.rsMaxLen a.toNat b.toNat c.toNat (exec (.rsbit a.toNat b.toNat c.toNat)) s ∧
      ∀ chosen : Nat → Nat, RsbitDoes chosen a.toNat b.toNat c.toNat (rsbitWithin chosen a.toNat b.toNat c.toNat) s

/-- R162: the encoder is linear, the zero message has zero ecc, and the ecc of a message is the xor of the contributions of
its set bits; it is also the xor of its bytes' entries of the superposition tables (R165). -/
def Obligations.EncoderIsLinear : Prop :=
  ∀ (m : List Byte) (e : Nat),
    (∀ m2 : List Byte, m2.length = m.length → rs (xorBytes m m2) e = xorBytes (rs m e) (rs m2 e)) ∧
    rs (List.replicate m.length 0) e = List.replicate e 0 ∧
    rs m e = ((List.range m.length).flatMap fun p => (List.range 8).map fun b => (p, b)).foldl
      (fun acc pb => if (m.getD pb.1 0).getLsbD pb.2 then xorBytes acc (sbc pb.2 (m.length - 1 - pb.1) e) else acc)
      (List.replicate e 0) ∧
    rs m e = (List.range m.length).reverse.foldl (fun acc p => xorBytes acc (rsTab e m.length p (m.getD p 0)))
      (List.replicate e 0)

/-! SymbolLayout. -/

/-- R220, LAYOUT. -/
def Obligations.LayoutSelects : Prop :=
  ∀ a b : Byte, decode (commandWord 0x30 a b 0) = .ok (.layout a.toNat b.toNat) ∧
    ∀ s : State,
      (a.toNat < 1 ∨ 40 < a.toNat → exec (.layout a.toNat b.toNat) s = .next (faulted 0x02 0x30 a.toNat s)) ∧
      (1 ≤ a.toNat → a.toNat ≤ 40 → 3 < b.toNat →
        exec (.layout a.toNat b.toNat) s = .next (faulted 0x03 0x30 b.toNat s)) ∧
      (1 ≤ a.toNat → a.toNat ≤ 40 → b.toNat ≤ 3 → ∃ c : Cfg, exec (.layout a.toNat b.toNat) s = .next { s with cfg := c } ∧
        c.ver.toNat = a.toNat ∧ levelOf? b.toNat = some c.ecl ∧ c.layv = true ∧ c.gridv = false ∧
        c.msk = s.cfg.msk ∧ c.mskv = s.cfg.mskv)

/-- R221, SETMASK. -/
def Obligations.SetmaskSelects : Prop :=
  ∀ a : Byte, decode (commandWord 0x31 a 0 0) = .ok (.setmask a.toNat) ∧
    ∀ s : State,
      (7 < a.toNat → exec (.setmask a.toNat) s = .next (faulted 0x04 0x31 a.toNat s)) ∧
      (a.toNat ≤ 7 → ∃ c : Cfg, exec (.setmask a.toNat) s = .next { s with cfg := c } ∧ c.msk.toNat = a.toNat ∧
        c.mskv = true ∧ c.ver = s.cfg.ver ∧ c.ecl = s.cfg.ecl ∧ c.layv = s.cfg.layv ∧ c.gridv = s.cfg.gridv)

/-- CELL completes for every cell of the current layout and names one of the ten final types: none is left Unassigned
(R193, R208); the one OtherFixed cell is the dark module at (8, side-8) (R201); a cell of each other type but Data, Ecc and
Padding lies where that type's rule puts it (R197 to R205); only R0, R1, R2 change (R222). -/
def Obligations.CellClassifiesEveryModule : Prop :=
  ∀ (s : State) (x y : Nat), HasLayout s → x < curSide s → y < curSide s →
    ∃ code r1 r2, exec (.cell x y) s = .next (cellResult code r1 r2 s) ∧ code ≤ 9 ∧
      (code = 4 ↔ x = 8 ∧ y = curSide s - 8) ∧ (code = 4 → r1 = 1 ∧ r2 = 0) ∧
      (code = 0 → ∃ c ∈ finderCorners s, c.1 ≤ x ∧ x ≤ c.1 + 6 ∧ c.2 ≤ y ∧ y ≤ c.2 + 6) ∧
      (code = 1 → ∃ c ∈ finderCorners s, c.1 ≤ x + 1 ∧ x ≤ c.1 + 7 ∧ c.2 ≤ y + 1 ∧ y ≤ c.2 + 7) ∧
      (code = 2 → x = 6 ∨ y = 6) ∧ (code = 3 → InAlignment s x y) ∧
      (code = 5 → (x = 8 ∧ (y ≤ 8 ∨ curSide s ≤ y + 7)) ∨ (y = 8 ∧ (x ≤ 8 ∨ curSide s ≤ x + 8))) ∧
      (code = 6 → 7 ≤ curVersion s ∧ ((y ≤ 5 ∧ curSide s ≤ x + 11 ∧ x + 9 ≤ curSide s) ∨
        (x ≤ 5 ∧ curSide s ≤ y + 11 ∧ y + 9 ≤ curSide s)))

/-- R197: the cells of the three 7 by 7 finder blocks, their type and their values. -/
def Obligations.FinderBlocks : Prop :=
  ∀ (s : State) (corner : Nat × Nat) (dx dy : Nat), HasLayout s → corner ∈ finderCorners s → dx ≤ 6 → dy ≤ 6 →
    exec (.cell (corner.1 + dx) (corner.2 + dy)) s =
      .next (cellResult 0 (if max (apart dx 3) (apart dy 3) = 2 then 0 else 1) 0 s)

/-- Separators and timing patterns (R198, R200): every cell within one of a finder block and not in it is a light Separator;
between the separators the cells of row 6 and column 6 are timing cells, dark at the even places, except those in the block of
an alignment pattern, which keep that type (R199). -/
def Obligations.SeparatorsAndTiming : Prop :=
  ∀ s : State, HasLayout s →
    (∀ (corner : Nat × Nat) (x y : Nat), corner ∈ finderCorners s → x < curSide s → y < curSide s →
      corner.1 ≤ x + 1 → x ≤ corner.1 + 7 → corner.2 ≤ y + 1 → y ≤ corner.2 + 7 →
      (x + 1 = corner.1 ∨ x = corner.1 + 7 ∨ y + 1 = corner.2 ∨ y = corner.2 + 7) →
      exec (.cell x y) s = .next (cellResult 1 0 0 s)) ∧
    ∀ i, 8 ≤ i → i + 9 ≤ curSide s →
      (¬ InAlignment s i 6 → exec (.cell i 6) s = .next (cellResult 2 ((i + 1) % 2) 0 s)) ∧
      (¬ InAlignment s 6 i → exec (.cell 6 i) s = .next (cellResult 2 ((i + 1) % 2) 0 s)) ∧
      ∀ cx cy, IsAlignmentCentre s cx cy →
        (apart i cx ≤ 2 → apart 6 cy ≤ 2 →
          exec (.cell i 6) s = .next (cellResult 3 (if max (apart i cx) (apart 6 cy) = 1 then 0 else 1) 0 s)) ∧
        (apart 6 cx ≤ 2 → apart i cy ≤ 2 →
          exec (.cell 6 i) s = .next (cellResult 3 (if max (apart 6 cx) (apart i cy) = 1 then 0 else 1) 0 s))

/-- R199: the 25 cells of the alignment block at every pair of ALIGN_TABLE coordinates but the three excluded ones, their type
and their values. -/
def Obligations.AlignmentBlocks : Prop :=
  ∀ (s : State) (cx cy dx dy : Nat), HasLayout s → cx ∈ alignCoords (curVersion s) → cy ∈ alignCoords (curVersion s) →
    (cx, cy) ≠ (6, 6) → (cx, cy) ≠ (curSide s - 7, 6) → (cx, cy) ≠ (6, curSide s - 7) → dx ≤ 4 → dy ≤ 4 →
    exec (.cell (cx - 2 + dx) (cy - 2 + dy)) s =
      .next (cellResult 3 (if max (apart dx 2) (apart dy 2) = 1 then 0 else 1) 0 s)

/-- R204 and R205: the cells that carry bit i of the format word, and from version 7 on of the version word, in both
copies. -/
def Obligations.InformationCells : Prop :=
  ∀ s : State, HasLayout s →
    (∀ i, i ≤ 5 → exec (.cell 8 i) s = .next (cellResult 5 i 0 s) ∧
      exec (.cell (curSide s - 1 - i) 8) s = .next (cellResult 5 i 1 s)) ∧
    exec (.cell 8 7) s = .next (cellResult 5 6 0 s) ∧ exec (.cell (curSide s - 7) 8) s = .next (cellResult 5 6 1 s) ∧
    exec (.cell 8 8) s = .next (cellResult 5 7 0 s) ∧ exec (.cell (curSide s - 8) 8) s = .next (cellResult 5 7 1 s) ∧
    exec (.cell 7 8) s = .next (cellResult 5 8 0 s) ∧ exec (.cell 8 (curSide s - 7)) s = .next (cellResult 5 8 1 s) ∧
    (∀ i, 9 ≤ i → i ≤ 14 → exec (.cell (14 - i) 8) s = .next (cellResult 5 i 0 s) ∧
      exec (.cell 8 (curSide s - 15 + i)) s = .next (cellResult 5 i 1 s)) ∧
    (7 ≤ curVersion s → ∀ i, i ≤ 17 →
      exec (.cell (curSide s - 11 + i % 3) (i / 3)) s = .next (cellResult 6 i 0 s) ∧
      exec (.cell (i / 3) (curSide s - 11 + i % 3)) s = .next (cellResult 6 i 1 s))

/-- Every bit of every codeword has exactly one cell (R194, R208), and which one: the n-th of the Data, Ecc and Padding cells
in the order of the walk carries bit `7 - (n mod 8)` of entry `n div 8` of the interleaved stream, and past the last entry is
Padding (R195, R206, R207, R222). The order of the walk and the stream are written out here, not the model's. The printed
tables meet the conditions of R255, whatever RS_MAXLEN (R250). -/
def Obligations.CodewordBitsHaveOneCell : Prop :=
  (∀ chosen : Nat → Nat, printedTables.Consistent chosen) ∧
  (∀ (s : State) (x y x' y' : Nat) (t t' : State), HasLayout s → x < curSide s → y < curSide s → x' < curSide s → y' < curSide s →
    exec (.cell x y) s = .next t → exec (.cell x' y') s = .next t' → t.r0 = 7 ∨ t.r0 = 8 → t'.r0 = t.r0 →
    (t.r1 = t'.r1 → t.r2.extractLsb' 0 8 = t'.r2.extractLsb' 0 8 → x = x' ∧ y = y') ∧
    (codewordEntries (curRow s))[t.r1.toNat]? =
      some (t.r0.toNat, (t.r2.extractLsb' 8 8).toNat, (t.r2.extractLsb' 16 16).toNat)) ∧
  (∀ (s : State) (n bit : Nat), HasLayout s → n < totalCodewords (curRow s) → bit ≤ 7 →
    ∃ x y t, x < curSide s ∧ y < curSide s ∧ exec (.cell x y) s = .next t ∧ (t.r0 = 7 ∨ t.r0 = 8) ∧ t.r1.toNat = n ∧
      (t.r2.extractLsb' 0 8).toNat = bit) ∧
  (∀ (s : State) (x y : Nat), HasLayout s → x < curSide s → y < curSide s → isWalked s (x, y) = true →
    (x, y) ∈ walkedCells s) ∧
  ∀ (s : State) (n : Nat) (c : Nat × Nat), HasLayout s → (walkedCells s)[n]? = some c →
    (∀ code k i, (codewordEntries (curRow s))[n / 8]? = some (code, k, i) →
      exec (.cell c.1 c.2) s = .next (cellResult code (n / 8) ((7 - n % 8) ||| k <<< 8 ||| i <<< 16) s)) ∧
    ((codewordEntries (curRow s))[n / 8]? = none → exec (.cell c.1 c.2) s = .next (cellResult 9 0 0 s))

/-- MASKBIT completes for every module and answers 1 exactly for the Data, Ecc and Padding cells, as CELL names them, at which the predicate of the selected
mask holds, at every level alike, and changes R0 only (R212, R213, R223). -/
def Obligations.MaskbitFollowsThePredicates : Prop :=
  ∀ (s : State) (l : Level) (x y : Nat), HasLayout s → s.cfg.mskv = true → x < curSide s → y < curSide s →
    ∃ code r1 r2 bit, exec (.cell x y) s = .next (cellResult code r1 r2 s) ∧
      exec (.maskbit x y) s = .next { s with r0 := BitVec.ofNat 32 bit } ∧ code ≤ 9 ∧ bit ≤ 1 ∧
      (bit = 1 ↔ (code = 7 ∨ code = 8 ∨ code = 9) ∧ MaskHolds s.cfg.msk.toNat x y) ∧
      exec (.maskbit x y) { s with cfg := { s.cfg with ecl := l } } =
        .next { s with cfg := { s.cfg with ecl := l }, r0 := BitVec.ofNat 32 bit }

/-- R224 with the words of R217: FMTINFO leaves the format word of the level and the mask version in R0. -/
def Obligations.FmtinfoReadsTheFormatWord : Prop :=
  decode (commandWord 0x34 0 0 0) = .ok .fmtinfo ∧
  ∀ s : State,
    (s.cfg.layv = false → exec .fmtinfo s = .next (faulted 0x0C 0x34 0 s)) ∧
    (s.cfg.layv = true → s.cfg.mskv = false → exec .fmtinfo s = .next (faulted 0x0D 0x34 0 s)) ∧
    (s.cfg.layv = true → s.cfg.mskv = true → exec .fmtinfo s =
      .next { s with r0 := BitVec.ofNat 32 ((formatWords.getD (levelOrdinal s.cfg.ecl).toNat []).getD s.cfg.msk.toNat 0) })

/-- R225 with the words of R219: VERINFO leaves the version word in R0, 0 for versions 1 to 6. -/
def Obligations.VerinfoReadsTheVersionWord : Prop :=
  decode (commandWord 0x35 0 0 0) = .ok .verinfo ∧
  ∀ s : State,
    (s.cfg.layv = false → exec .verinfo s = .next (faulted 0x0C 0x35 0 s)) ∧
    (HasLayout s → curVersion s < 7 → exec .verinfo s = .next { s with r0 := 0 }) ∧
    (HasLayout s → 7 ≤ curVersion s →
      exec .verinfo s = .next { s with r0 := BitVec.ofNat 32 (versionWords.getD (curVersion s - 7) 0) })

/-- CAPINFO and BLKINFO (R192, R226, R227): the blocks have len1 or len1 + 1 data codewords, the shorter ones first, each
begins where the one before it ends and the last ends at dataTotal; data and ecc codewords together are the version's total
of BLOCK_TABLE; only R0, R1, R2 change. Under any other tables the same of their rows (R250). -/
def Obligations.BlockStructure : Prop :=
  ∀ s : State, HasLayout s →
    BlocksAre (curRow s) (versionRow (curVersion s)).total (exec .capinfo s) (fun k => exec (.blkinfo k) s) s ∧
    ∀ q : QrTables, ∃ words, BlocksAre (curRow s q) words (capinfoUnder q s) (fun k => blkinfoUnder q k s) s

/-! DataEncoder. -/

/-- ENC completes for every payload a mode carries that fits some version, and leaves a version, its capacity in BLEN and
the bits of the segmentation at that version, which are within it (R286, R288, R290). R290 lets a model refuse a payload with
bytes never written; that it completes there too, with free values for them, is log entry 1's choice. -/
def Obligations.EncCompletes : Prop :=
  ∀ (ecLevel mode v : Nat) (l : Level) (m : Mode) (s : State), levelOf? ecLevel = some l → modeOf? mode = some m →
    s.len0.toNat ≤ 8192 → (∀ b ∈ payload s, modeCarries mode b) → 1 ≤ v → v ≤ 40 → Fits m v l s →
    ∃ t, exec (.enc ecLevel mode) s = .next t ∧ t.status = s.status ∧ 1 ≤ t.r0.toNat ∧ t.r0.toNat ≤ 40 ∧
      t.blen.toNat = 8 * dataTotal (blockRow t.r0.toNat l) ∧
      t.r1.toNat = (segmentation m (payload s) (tier t.r0.toNat)).1 ∧ t.r1.toNat ≤ t.blen.toNat

/-- ENCV completes for every payload a mode carries that fits the version, and leaves the version, its capacity in BLEN and
the bits of the segmentation, which are within it (R288, R291). That it completes also with payload bytes never written, with
free values for them, is log entry 1's choice. -/
def Obligations.EncvCompletes : Prop :=
  ∀ (version ecLevel mode : Nat) (l : Level) (m : Mode) (s : State), 1 ≤ version → version ≤ 40 →
    levelOf? ecLevel = some l → modeOf? mode = some m → s.len0.toNat ≤ 8192 → (∀ b ∈ payload s, modeCarries mode b) →
    Fits m version l s →
    ∃ t, exec (.encv version ecLevel mode) s = .next t ∧ t.status = s.status ∧ t.r0.toNat = version ∧
      t.blen.toNat = 8 * dataTotal (blockRow version l) ∧
      t.r1.toNat = (segmentation m (payload s) (tier version)).1 ∧ t.r1.toNat ≤ t.blen.toNat

/-- R286: the version ENC returns is the least that ENCV accepts for the payload, and ENC leaves what ENCV leaves for it. -/
def Obligations.EncIsEncvAtTheLeastVersion : Prop :=
  ∀ (ecLevel mode : Nat) (s t : State), s.status = ⟨0, 0, 0⟩ → exec (.enc ecLevel mode) s = .next t →
    t.status = ⟨0, 0, 0⟩ →
    1 ≤ t.r0.toNat ∧ t.r0.toNat ≤ 40 ∧ exec (.encv t.r0.toNat ecLevel mode) s = .next t ∧
    ∀ v, 1 ≤ v → v < t.r0.toNat → exec (.encv v ecLevel mode) s = .next (faulted 0x07 0x41 v s)

/-- The faults of ENC and ENCV in the order their rules check them (R283, R290, R291). R290 lets a model refuse a payload with
bytes never written; that E_CHARSET, E_CAPACITY and E_TOOBIG are raised there too is log entry 1's choice. -/
def Obligations.EncoderFaults : Prop :=
  ∀ (version ecLevel mode : Nat) (s : State),
    (version < 1 ∨ 40 < version → exec (.encv version ecLevel mode) s = .next (faulted 0x02 0x41 version s)) ∧
    (3 < ecLevel → exec (.enc ecLevel mode) s = .next (faulted 0x03 0x40 ecLevel s)) ∧
    (1 ≤ version → version ≤ 40 → 3 < ecLevel →
      exec (.encv version ecLevel mode) s = .next (faulted 0x03 0x41 ecLevel s)) ∧
    (∀ l, levelOf? ecLevel = some l →
      (3 < mode → exec (.enc ecLevel mode) s = .next (faulted 0x05 0x40 mode s)) ∧
      (mode ≤ 3 → 8192 < s.len0.toNat → exec (.enc ecLevel mode) s = .next (faulted 0x0B 0x40 s.len0.toNat s)) ∧
      (mode ≤ 3 → s.len0.toNat ≤ 8192 → ∀ i, i < s.len0.toNat → ¬ modeCarries mode (readByte s i) →
        (∀ j, j < i → modeCarries mode (readByte s j)) →
        exec (.enc ecLevel mode) s = .next (faulted 0x06 0x40 i s)) ∧
      (s.len0.toNat ≤ 8192 → ∀ m, modeOf? mode = some m → (∀ b ∈ payload s, modeCarries mode b) →
        (∀ v, 1 ≤ v → v ≤ 40 → 8 * dataTotal (blockRow v l) < (segmentation m (payload s) (tier v)).1) →
        exec (.enc ecLevel mode) s = .next (faulted 0x09 0x40 0 s)) ∧
      (1 ≤ version → version ≤ 40 →
        (3 < mode → exec (.encv version ecLevel mode) s = .next (faulted 0x05 0x41 mode s)) ∧
        (mode ≤ 3 → 8192 < s.len0.toNat →
          exec (.encv version ecLevel mode) s = .next (faulted 0x0B 0x41 s.len0.toNat s)) ∧
        (mode ≤ 3 → s.len0.toNat ≤ 8192 → ∀ i, i < s.len0.toNat → ¬ modeCarries mode (readByte s i) →
          (∀ j, j < i → modeCarries mode (readByte s j)) →
          exec (.encv version ecLevel mode) s = .next (faulted 0x06 0x41 i s)) ∧
        (s.len0.toNat ≤ 8192 → ∀ m, modeOf? mode = some m → (∀ b ∈ payload s, modeCarries mode b) →
          8 * dataTotal (blockRow version l) < (segmentation m (payload s) (tier version)).1 →
          exec (.encv version ecLevel mode) s = .next (faulted 0x07 0x41 version s))))

/-- The segmentation of mode Auto covers the payload with segments whose types all their bytes allow, its total is the cost of
its segments, and it is at most the cost of one Byte segment and of a segment for every span (R272, R277, R278, R281). -/
def Obligations.SegmentationIsValidAndBounded : Prop :=
  ∀ (bytes : List Byte) (t : Nat),
    let seg := segmentation .auto bytes t
    Covers seg.2 bytes ∧ (∀ g ∈ seg.2, 1 ≤ g.len) ∧ seg.1 = cost t (seg.2.map fun g => (g.type, g.len)) ∧
    (bytes ≠ [] → seg.1 ≤ hdr .B t + 8 * bytes.length) ∧ seg.1 ≤ cost t (spans bytes) ∧
    (bytes = [] → seg = (0, []))

/-- What ENC or ENCV leaves in BITS reads back: R2 segments, mode indicators, length fields and characters in the widths of
the version in R0, spell the payload; they take R1 bits, and the rest of the BLEN bits are 0 (R274 to R276, R284, R288; that
the fill is zeros is PAD_FILL = ZERO, log entry 6). Under either value of PAD_FILL the segments read back the same, followed by
that value's fill (R7, R287). -/
def Obligations.EncodedStreamReadsBack : Prop :=
  (∀ (i : Instr) (s t : State),
    (∃ ecLevel mode, i = .enc ecLevel mode) ∨ (∃ version ecLevel mode, i = .encv version ecLevel mode) →
    s.status = ⟨0, 0, 0⟩ → exec i s = .next t → t.status = ⟨0, 0, 0⟩ →
    ∃ fill : Nat, t.r1.toNat + fill = t.blen.toNat ∧
      readSegments t.r0.toNat t.r2.toNat (bitStream t) = some (payload s, List.replicate fill false)) ∧
  ∀ (pad : PadFill) (s t : State), s.status = ⟨0, 0, 0⟩ → t.status = ⟨0, 0, 0⟩ →
    (∃ ecLevel mode, encFilling pad ecLevel mode s = .next t) ∨
      (∃ version ecLevel mode, encvFilling pad version ecLevel mode s = .next t) →
    ∃ fill : List Bool, FillIs pad t.r1.toNat t.blen.toNat fill ∧
      readSegments t.r0.toNat t.r2.toNat (bitStream t) = some (payload s, fill)

/-! ConstraintSolver. -/

/-- Raw SOLVEBLK completes on every legal template and keeps the contract of R330, for the draw the unit takes and its
RS_MAXLEN, and for every other draw and RS_MAXLEN (R322, R334, R340; the draw is log entry 2's free value, RS_MAXLEN log entry
5's). That it completes also with label bytes never written, which R340 lets a model refuse, is log entry 1's choice. -/
def Obligations.RawSolveKeepsTheContract : Prop :=
  ∀ s : State, RawLengths s → LabelsLegal s →
    (Supported Config.rsMaxLen (s.len0.toNat / 8) (s.len1.toNat / 8) → ∃ t, exec (.solveblk 0 true) s = .next t ∧ SolvedRaw s t) ∧
    ∀ chosen draw : Nat → Nat, Supported chosen (s.len0.toNat / 8) (s.len1.toNat / 8) →
      ∃ t, solveRaw chosen draw 0 s = .next t ∧ SolvedRaw s t

/-- SOLVEBLK k completes on every legal template of block k of the current layout and keeps the contract of R330 in the
rendered domain, for the draw the unit takes and for every other draw (R322, R323, R334, R340; the draw is log entry 2's free
value). That it completes also with label bytes never written, which R340 lets a model refuse, is log entry 1's choice. -/
def Obligations.BlockSolveKeepsTheContract : Prop :=
  ∀ (s : State) (k : Nat), HasLayoutAndMask s → k < nblocks (curRow s) → s.len0.toNat = 8 * dataLen (curRow s) k →
    s.len1.toNat = 8 * (curRow s).eccLen → LabelsLegal s →
    (∃ t, exec (.solveblk k false) s = .next t ∧ SolvedBlock k s t) ∧
    ∀ draw : Nat → Nat, ∃ t, solveLayoutBlock draw k s = .next t ∧ SolvedBlock k s t

/-- The faults of SOLVEBLK in the order checked (R322, R340). Which pairs are unsupported rests on RS_MAXLEN, log entry 5's
free value; that E_LABEL is raised also over label bytes never written, which R340 lets a model refuse, is log entry 1's
choice. -/
def Obligations.SolverFaults : Prop :=
  ∀ (k : Nat) (s : State),
    (k ≠ 0 → exec (.solveblk k true) s = .next (faulted 0x0B 0x50 k s)) ∧
    (¬ (s.len0.toNat % 8 = 0 ∧ 8 ≤ s.len0.toNat ∧ s.len0.toNat ≤ 1024) →
      exec (.solveblk 0 true) s = .next (faulted 0x08 0x50 s.len0.toNat s)) ∧
    (s.len0.toNat % 8 = 0 → 8 ≤ s.len0.toNat → s.len0.toNat ≤ 1024 →
      ¬ (s.len1.toNat % 8 = 0 ∧ 8 ≤ s.len1.toNat ∧ s.len1.toNat ≤ 256) →
      exec (.solveblk 0 true) s = .next (faulted 0x08 0x50 s.len1.toNat s)) ∧
    (RawLengths s → ¬ Supported Config.rsMaxLen (s.len0.toNat / 8) (s.len1.toNat / 8) →
      exec (.solveblk 0 true) s = .next (faulted 0x0A 0x50 (s.len0.toNat / 8 ||| (s.len1.toNat / 8) <<< 8) s)) ∧
    (RawLengths s → Supported Config.rsMaxLen (s.len0.toNat / 8) (s.len1.toNat / 8) →
      (∀ i, i < s.len0.toNat → ¬ Legal (tdLabel s i) → (∀ j, j < i → Legal (tdLabel s j)) →
        exec (.solveblk 0 true) s = .next (faulted 0x10 0x50 i s)) ∧
      (∀ j, j < s.len1.toNat → (∀ i, i < s.len0.toNat → Legal (tdLabel s i)) → ¬ Legal (teLabel s j) →
        (∀ i, i < j → Legal (teLabel s i)) → exec (.solveblk 0 true) s = .next (faulted 0x10 0x50 (0x8000 + j) s))) ∧
    (s.cfg.layv = false → exec (.solveblk k false) s = .next (faulted 0x0C 0x50 0 s)) ∧
    (s.cfg.layv = true → s.cfg.mskv = false → exec (.solveblk k false) s = .next (faulted 0x0D 0x50 0 s)) ∧
    (s.cfg.layv = true → s.cfg.mskv = true →
      (nblocks (curRow s) ≤ k → exec (.solveblk k false) s = .next (faulted 0x0B 0x50 k s)) ∧
      (k < nblocks (curRow s) →
        (s.len0.toNat ≠ 8 * dataLen (curRow s) k →
          exec (.solveblk k false) s = .next (faulted 0x08 0x50 s.len0.toNat s)) ∧
        (s.len0.toNat = 8 * dataLen (curRow s) k → s.len1.toNat ≠ 8 * (curRow s).eccLen →
          exec (.solveblk k false) s = .next (faulted 0x08 0x50 s.len1.toNat s)) ∧
        (s.len0.toNat = 8 * dataLen (curRow s) k → s.len1.toNat = 8 * (curRow s).eccLen →
          (∀ i, i < s.len0.toNat → ¬ Legal (tdLabel s i) → (∀ j, j < i → Legal (tdLabel s j)) →
            exec (.solveblk k false) s = .next (faulted 0x10 0x50 i s)) ∧
          (∀ j, j < s.len1.toNat → (∀ i, i < s.len0.toNat → Legal (tdLabel s i)) → ¬ Legal (teLabel s j) →
            (∀ i, i < j → Legal (teLabel s i)) →
            exec (.solveblk k false) s = .next (faulted 0x10 0x50 (0x8000 + j) s)))))

/-- R467: the rank in R0, the count in R1 and the target count in R2 are the same for every draw. -/
def Obligations.RankIndependentOfDraw : Prop :=
  ∀ (chosen draw draw' : Nat → Nat) (s t t' : State) (k : Nat),
    s.status = ⟨0, 0, 0⟩ → t.status = ⟨0, 0, 0⟩ →
    (solveRaw chosen draw k s = .next t ∧ solveRaw chosen draw' k s = .next t') ∨
      (solveLayoutBlock draw k s = .next t ∧ solveLayoutBlock draw' k s = .next t') →
    t'.status = ⟨0, 0, 0⟩ ∧ t.r0 = t'.r0 ∧ t.r1 = t'.r1 ∧ t.r2 = t'.r2

/-- The draw gives a permutation of the free-bit list, and every permutation is some draw's (R334; the coding of a
permutation by numbers is log entry 2's). -/
def Obligations.EveryPermutationIsADraw : Prop :=
  (∀ (draw : Nat → Nat) (free : List Nat), (permute draw free).Perm free) ∧
  ∀ free order : List Nat, order.Perm free → ∃ draw : Nat → Nat, permute draw free = order

/-- R327 over R325: an accepted insert keeps the LinearSystem reduced and gives it one row more, whose pivot is a new one; a
vector is rejected only when it is the xor of rows. -/
def Obligations.InsertKeepsTheSystemReduced : Prop :=
  ∀ (orig : Nat → SolverVec) (rows : List Row) (id : Nat), Reduced orig rows →
    (∀ rows', insertVec id (orig id) rows = some rows' →
      Reduced orig rows' ∧ rows'.length = rows.length + 1 ∧ ∀ r ∈ rows, ∃ r' ∈ rows', r'.pivot = r.pivot) ∧
    (insertVec id (orig id) rows = none →
      ∃ used : List Row, used.Sublist rows ∧ orig id = used.foldr (fun r acc => r.vec ^^^ acc) 0)

/-- R328 over R325: `solve` splits its argument into the xor of the vectors it names and a leftover that is 0 at every pivot. -/
def Obligations.SolveLeavesNothingAtThePivots : Prop :=
  ∀ (orig : Nat → SolverVec) (rows : List Row) (c : SolverVec), Reduced orig rows →
    c = xorOf orig (solveVec rows c).2 ^^^ (solveVec rows c).1 ∧ (solveVec rows c).2.Nodup ∧
    ∀ r ∈ rows, (solveVec rows c).1.getLsbD r.pivot = false

/-- R338: ecc bit `tgt[t]` of the resolved block is the target value xor the leftover's bit t, so target t is met exactly when
that bit is 0 (R339), whatever the draw. -/
def Obligations.TargetsAreMetUpToTheLeftover : Prop :=
  ∀ (draw : Nat → Nat) (p : Template), TemplateOk p →
    let st := offerAll p (permute draw p.free)
    ∀ t, t < p.targets.length →
      bitOfBytes (rs (packBytes (solveTemplate draw p).bits) p.eccCw) (p.targets.getD t 0) =
        (p.targetValue (p.targets.getD t 0) ^^ (solveVec st.rows (correction p st.solved)).1.getLsbD t)

/-! SymbolAssembler. -/

/-- BUILD completes when the bit stream fills the layout (R371): DATA takes BITS, every block of DATA and ECCW is a codeword
(R375), R0 is the side, GRIDV is set, and the frame of R67 holds; unwritten bytes of BITS are log entry 1's free values. The
same under any other tables whose row for the layout meets the conditions of R255 (R250). -/
def Obligations.BuildAssemblesTheBitStream : Prop :=
  ∀ s : State, HasLayoutAndMask s →
    (s.blen.toNat = 8 * dataTotal (curRow s) → BuildDoes printedTables (exec .build s) s) ∧
    ∀ (chosen : Nat → Nat) (q : QrTables), RowConsistent chosen q (curVersion s) s.cfg.ecl →
      s.blen.toNat = 8 * dataTotal (curRow s q) → BuildDoes q (buildUnder q s) s

/-- ASSEMBLE completes with a layout and a mask (R372): the same, from the codewords in DATA, which keep their values. That it
completes also with bytes of DATA never written, which R372 lets a model refuse, is log entry 1's choice. -/
def Obligations.AssembleAssemblesTheData : Prop :=
  ∀ s : State, HasLayoutAndMask s →
    ∃ t, exec .assemble s = .next t ∧
      { t with mem := s.mem, grid := s.grid } = { s with r0 := BitVec.ofNat 32 (curSide s), cfg := { s.cfg with gridv := true } } ∧
      BlocksAreCodewords t ∧ ∀ a, ¬ inRange a (0x4000, eccTotal (curRow s)) → readByte t a = readByte s a

/-- R370 and R376: after BUILD, and after ASSEMBLE, GET shows every module as the matrix has it; taking the mask off a Data
module gives the bit of BITS (of DATA) at its address, off an Ecc module the bit of its block's redundancy. That both complete also with bytes of BITS or DATA never written, which
R371 and R372 let a model refuse, is log entry 1's choice. -/
def Obligations.GridRendersTheCodewords : Prop :=
  ∀ s : State, HasLayoutAndMask s →
    (s.blen.toNat = 8 * dataTotal (curRow s) →
      ∃ t, exec .build s = .next t ∧ RendersModules (bytesAt s 0x2000 (dataTotal (curRow s))) t) ∧
    ∃ t, exec .assemble s = .next t ∧ RendersModules (bytesAt s 0x3000 (dataTotal (curRow s))) t

/-- ASSEMBLE after BUILD under the same layout and mask changes nothing: DATA and ECCW are unchanged and the matrix is the
same (R370, R372, R377). That BUILD completes also with bytes of BITS never written, which R371 lets a model refuse, is log
entry 1's choice. -/
def Obligations.AssembleAfterBuildChangesNothing : Prop :=
  ∀ s : State, HasLayoutAndMask s → s.mem.wf = true → s.blen.toNat = 8 * dataTotal (curRow s) →
    ∃ t, exec .build s = .next t ∧ exec .assemble t = .next t

/-- R373 and R374: GET leaves GRID[y][x] in R0 and SIZE the side, of a valid grid; their faults in their order. -/
def Obligations.GetAndSizeReadTheGrid : Prop :=
  (∀ a b : Byte, decode (commandWord 0x62 a b 0) = .ok (.get a.toNat b.toNat) ∧
    ∀ s : State,
      (s.cfg.gridv = false → exec (.get a.toNat b.toNat) s = .next (faulted 0x0E 0x62 0 s)) ∧
      (s.cfg.gridv = true → curSide s ≤ a.toNat → exec (.get a.toNat b.toNat) s = .next (faulted 0x0B 0x62 a.toNat s)) ∧
      (s.cfg.gridv = true → a.toNat < curSide s → curSide s ≤ b.toNat →
        exec (.get a.toNat b.toNat) s = .next (faulted 0x0B 0x62 b.toNat s)) ∧
      (s.cfg.gridv = true → a.toNat < curSide s → b.toNat < curSide s → exec (.get a.toNat b.toNat) s =
        .next { s with r0 := (BitVec.ofBool (gridBit s (b.toNat * (4 * s.cfg.ver.toNat + 17) + a.toNat))).setWidth 32 })) ∧
  decode (commandWord 0x63 0 0 0) = .ok .size ∧
  ∀ s : State,
    (s.cfg.gridv = false → exec .size s = .next (faulted 0x0E 0x63 0 s)) ∧
    (s.cfg.gridv = true → exec .size s = .next { s with r0 := BitVec.ofNat 32 (4 * s.cfg.ver.toNat + 17) })

/-- The precondition faults and the operand and length faults of the layout and assembler commands, in the order of R406:
E_NOLAYOUT, E_NOMASK, then the operands, then BLEN (R222 to R227, R371, R372, R402, R455). -/
def Obligations.PreconditionFaults : Prop :=
  ∀ (s : State) (x y : Nat),
    (s.cfg.layv = false → ∀ i ∈ [Instr.cell x y, .maskbit x y, .fmtinfo, .verinfo, .blkinfo x, .capinfo, .solveblk x false,
        .build, .assemble], exec i s = .next (faulted 0x0C (fieldOp (encode i)) 0 s)) ∧
    (s.cfg.layv = true → s.cfg.mskv = false → ∀ i ∈ [Instr.maskbit x y, .fmtinfo, .solveblk x false, .build, .assemble],
      exec i s = .next (faulted 0x0D (fieldOp (encode i)) 0 s)) ∧
    (s.cfg.layv = true →
      (curSide s ≤ x → exec (.cell x y) s = .next (faulted 0x0B 0x32 x s)) ∧
      (x < curSide s → curSide s ≤ y → exec (.cell x y) s = .next (faulted 0x0B 0x32 y s)) ∧
      (nblocks (curRow s) ≤ x → exec (.blkinfo x) s = .next (faulted 0x0B 0x36 x s)) ∧
      (s.cfg.mskv = true →
        (curSide s ≤ x → exec (.maskbit x y) s = .next (faulted 0x0B 0x33 x s)) ∧
        (x < curSide s → curSide s ≤ y → exec (.maskbit x y) s = .next (faulted 0x0B 0x33 y s)) ∧
        (s.blen.toNat ≠ 8 * dataTotal (curRow s) → exec .build s = .next (faulted 0x08 0x60 s.blen.toNat s))))

end
end

