-- ==== Sys2Proof/Machine/Api.lean ====
section
/-! DEFINITION. The document's API as programs of the host (spec/30_encoding.md R110 to R114): the accesses each operation
is, in order, and what it returns. A host program goes on from what its reads returned, since R111 reads as many bytes of
BITS as BLEN says. The spec gives no expansion of an argument that no access carries: an operand above 255, an address above
0xFFFF and a length above 32 bits are reduced to the field they go in (DESIGN CHOICE, log entries 13 and 19). -/

namespace Sys2Proof.Machine

/-! Programs of the host. -/

/-- A program of the host: it ends with a result, or makes one of the accesses of R61 and goes on, after a read with the
value read. -/
inductive HostProgram (α : Type) where
  | done (result : α)
  | write (act : HostAction) (rest : HostProgram α)
  | readReg (i : Fin 16) (rest : Word → HostProgram α)
  | readMem (a : BitVec 16) (rest : Byte → HostProgram α)

/-- One program after the other, which goes on from its result. -/
def HostProgram.andThen {α β : Type} : HostProgram α → (α → HostProgram β) → HostProgram β
  | .done result, next => next result
  | .write act rest, next => .write act (rest.andThen next)
  | .readReg i rest, next => .readReg i fun v => (rest v).andThen next
  | .readMem a rest, next => .readMem a fun v => (rest v).andThen next

/-- A program run: its accesses performed one after the other, with nothing between them (R68). -/
def HostProgram.run {α : Type} : HostProgram α → State → Host.Outcome (State × α) Fault Refusal
  | .done result, s => .next (s, result)
  | .write act rest, s =>
    match perform act s with
    | .next t => rest.run t
    | .fault r => .fault r
    | .refused r => .refused r
  | .readReg i rest, s =>
    match perform (.regRead i) s with
    | .next t => (rest (Machine.readReg i s)).run t
    | .fault r => .fault r
    | .refused r => .refused r
  | .readMem a rest, s =>
    match perform (.memRead a) s with
    | .next t => (rest (hostMemRead a s)).run t
    | .fault r => .fault r
    | .refused r => .refused r

/-- Writes, one after the other. -/
def writes : List HostAction → HostProgram Unit
  | [] => .done ()
  | act :: acts => .write act (writes acts)

/-- The issue of a command (R22). An operand above 255 is reduced modulo 256 (log entry 13). -/
def issue (i : Instr) : HostAction := .regWrite 0 (encode i)

/-- `poke NAME+off, bytes` (R100). An address above 0xFFFF is reduced modulo 2^16 (log entry 19). -/
def poke (b : Buffer) (offset : Nat) (bytes : List Byte) : List HostAction :=
  bytes.mapIdx fun i v => .memWrite (BitVec.ofNat 16 (b.base + offset + i)) v

/-- `peek NAME+off, n` (R100). An address above 0xFFFF is reduced modulo 2^16 (log entry 19). -/
def peek (b : Buffer) (offset : Nat) : Nat → HostProgram (List Byte)
  | 0 => .done []
  | n + 1 => .readMem (BitVec.ofNat 16 (b.base + offset)) fun v => (peek b (offset + 1) n).andThen fun vs => .done (v :: vs)

/-- `rreg` of R0, R1 and R2. -/
def readResults : HostProgram (Word × Word × Word) :=
  .readReg 2 fun r0 => .readReg 3 fun r1 => .readReg 4 fun r2 => .done (r0, r1, r2)

/-- A command that is a query: issued, its results read. -/
def query (i : Instr) : HostProgram (Word × Word × Word) := .write (issue i) readResults

/-! buildLayout and getMask (R110). -/

/-- `buildLayout(version, ecLevel)` (R110). -/
def buildLayout (version ecLevel : Nat) : HostProgram Unit := writes [issue (.layout version ecLevel)]

/-- The returned SymbolLayout is the current layout, read out by these five (R110). -/
def layoutCellAt (x y : Nat) : HostProgram (Word × Word × Word) := query (.cell x y)

/-- Block k of the current layout (R110). -/
def layoutBlock (k : Nat) : HostProgram (Word × Word × Word) := query (.blkinfo k)

/-- The capacity of the current layout (R110). -/
def layoutCapacity : HostProgram (Word × Word × Word) := query .capinfo

/-- The format word of the current layout and mask (R110). -/
def layoutFormat : HostProgram (Word × Word × Word) := query .fmtinfo

/-- The version word of the current layout (R110). -/
def layoutVersion : HostProgram (Word × Word × Word) := query .verinfo

/-- `getMask(maskVersion)` (R110). -/
def getMask (maskVersion : Nat) : HostProgram Unit := writes [issue (.setmask maskVersion)]

/-- The mask array, read out with MASKBIT (R110). -/
def maskBitAt (x y : Nat) : HostProgram (Word × Word × Word) := query (.maskbit x y)

/-! encodePayload (R111). -/

/-- The mode code of an optional mode: AUTO when absent (R111). -/
def modeCode (mode : Option Nat) : Nat := mode.getD 0

/-- The first `n` bits of packed bytes, in stream order (R11). -/
def unpackBits (bytes : List Byte) (n : Nat) : List Bool := (bytes.flatMap fun b => natBits 8 b.toNat).take n

/-- The bit stream: the first BLEN bits of BITS (R111). -/
def readBitStream : HostProgram (List Bool) :=
  .readReg 7 fun blen =>
    (peek .bits 0 ((blen.toNat + 7) / 8)).andThen fun bytes => .done (unpackBits bytes blen.toNat)

/-- A payload given to the unit and encoded by a command; the version and the bit stream read back (R111). -/
def encodeWith (bytes : List Byte) (command : Instr) : HostProgram (Nat × List Bool) :=
  (writes (poke .pay 0 bytes ++ [.regWrite 5 (word bytes.length), issue command])).andThen fun _ =>
    .readReg 2 fun version => readBitStream.andThen fun bits => .done (version.toNat, bits)

/-- `encodePayload(bytes, ecLevel, mode?) -> (version, bitStream)` (R111). -/
def encodePayload (bytes : List Byte) (ecLevel : Nat) (mode : Option Nat) : HostProgram (Nat × List Bool) :=
  encodeWith bytes (.enc ecLevel (modeCode mode))

/-- The variant of `encodePayload` with an explicit version (R111). -/
def encodePayloadAt (bytes : List Byte) (version ecLevel : Nat) (mode : Option Nat) : HostProgram (Nat × List Bool) :=
  encodeWith bytes (.encv version ecLevel (modeCode mode))

/-! solveConstrained (R112). -/

/-- The templates of one block: the label bytes of its data bits and of its ecc bits (R43, R112). -/
structure BlockTemplates where
  data : List Byte
  ecc : List Byte
deriving DecidableEq, Repr

/-- One block: its labels, its lengths as the layout has them, and SOLVEBLK (R112). -/
def solveOne (row : BlockRow) (templates : Nat → BlockTemplates) (k : Nat) : List HostAction :=
  poke .td 0 (templates k).data ++ poke .te 0 (templates k).ecc
    ++ [.regWrite 5 (word (8 * dataLen row k)), .regWrite 6 (word (8 * row.eccLen)), issue (.solveblk k false)]

/-- The blocks of a list, in its order, solved under a layout and a mask, and assembled: blocks may be solved in any order,
and one that is not solved keeps what DATA held for it (R112). -/
def solveBlocks (blocks : List Nat) (version : Nat) (level : Level) (templates : Nat → BlockTemplates) (maskVersion : Nat) :
    HostProgram Unit :=
  writes ([issue (.layout version (levelOrdinal level).toNat), issue (.setmask maskVersion)]
    ++ blocks.flatMap (solveOne (blockRow version level) templates) ++ [issue .assemble])

/-- `solveConstrained(layout, perBlockTemplates, maskVersion)`: every block k from 0 to `nblocks-1` (R112). -/
def solveConstrained (version : Nat) (level : Level) (templates : Nat → BlockTemplates) (maskVersion : Nat) :
    HostProgram Unit :=
  solveBlocks (List.range (nblocks (blockRow version level))) version level templates maskVersion

/-! buildSymbol (R113). -/

/-- A bit stream placed in BITS by `poke` and its length in BLEN by `wreg`. A last byte that the stream does not fill ends
in zeros (log entry 18). -/
def placeBitStream (bits : List Bool) : List HostAction :=
  poke .bits 0 (packBytes (bits ++ List.replicate ((8 - bits.length % 8) % 8) false)) ++ [.regWrite 7 (word bits.length)]

/-- `buildSymbol(bitStream, version, ecLevel, maskVersion)`: the bit stream as ENC left it (none), or placed (R113). -/
def buildSymbol (bitStream : Option (List Bool)) (version ecLevel maskVersion : Nat) : HostProgram Unit :=
  writes ([issue (.layout version ecLevel), issue (.setmask maskVersion)]
    ++ (bitStream.map placeBitStream).getD [] ++ [issue .build])

/-! The module matrix (R114). -/

/-- `ModuleMatrix.get(x, y)` (R114). -/
def matrixGet (x y : Nat) : HostProgram Word := .write (issue (.get x y)) (.readReg 2 .done)

/-- `ModuleMatrix.size` (R114). -/
def matrixSize : HostProgram Word := .write (issue .size) (.readReg 2 .done)

end Sys2Proof.Machine
end

