-- ==== Sys2Proof/Laws/Api.lean ====
section
/-! SUPPORT. What host programs do: running one after the other, and what one access leaves. -/

namespace Sys2Proof.Machine

/-- A program that goes on from another's result runs from where that one ended. -/
theorem HostProgram.run_andThen {α β : Type} (p : HostProgram α) (next : α → HostProgram β) (s t : State) (r : α)
    (h : p.run s = .next (t, r)) : (p.andThen next).run s = (next r).run t := by
  induction p generalizing s with
  | done result =>
    simp only [run, Host.Outcome.next.injEq, Prod.mk.injEq] at h
    obtain ⟨rfl, rfl⟩ := h
    rfl
  | write act rest ih =>
    simp only [run, andThen] at h ⊢
    cases hp : perform act s <;> simp only [hp] at h ⊢
    · exact ih _ h
    all_goals cases h
  | readReg i rest ih => exact ih _ _ h
  | readMem a rest ih => exact ih _ _ h

/-- A register read goes on with the register's value, the unit unchanged (R64). -/
@[simp] theorem HostProgram.run_readReg {α : Type} (i : Fin 16) (rest : Word → HostProgram α) (s : State) :
    (HostProgram.readReg i rest).run s = (rest (Machine.readReg i s)).run (answer (.reg (Machine.readReg i s)) s) := rfl

/-- A byte read goes on with the byte's value, the unit unchanged (R64). -/
@[simp] theorem HostProgram.run_readMem {α : Type} (a : BitVec 16) (rest : Byte → HostProgram α) (s : State) :
    (HostProgram.readMem a rest).run s = (rest (hostMemRead a s)).run (answer (.byte (hostMemRead a s)) s) := rfl

end Sys2Proof.Machine
end

