-- ==== Sys2Proof/Laws/State.lean ====
section
/-! SUPPORT. What every shared update of the state does to every field of it, one lemma per field, so that no proof unfolds
a record update. -/

namespace Sys2Proof.Machine

variable (s : State)

@[simp] theorem raise_status (op : Byte) (code : FaultCode) (info : Nat) : (raise op code info s).status = ⟨code.number, op, BitVec.ofNat 16 info⟩ := rfl
@[simp] theorem raise_r0 (op : Byte) (code : FaultCode) (info : Nat) : (raise op code info s).r0 = s.r0 := rfl
@[simp] theorem raise_r1 (op : Byte) (code : FaultCode) (info : Nat) : (raise op code info s).r1 = s.r1 := rfl
@[simp] theorem raise_r2 (op : Byte) (code : FaultCode) (info : Nat) : (raise op code info s).r2 = s.r2 := rfl
@[simp] theorem raise_len0 (op : Byte) (code : FaultCode) (info : Nat) : (raise op code info s).len0 = s.len0 := rfl
@[simp] theorem raise_len1 (op : Byte) (code : FaultCode) (info : Nat) : (raise op code info s).len1 = s.len1 := rfl
@[simp] theorem raise_blen (op : Byte) (code : FaultCode) (info : Nat) : (raise op code info s).blen = s.blen := rfl
@[simp] theorem raise_cfg (op : Byte) (code : FaultCode) (info : Nat) : (raise op code info s).cfg = s.cfg := rfl
@[simp] theorem raise_mem (op : Byte) (code : FaultCode) (info : Nat) : (raise op code info s).mem = s.mem := rfl
@[simp] theorem raise_grid (op : Byte) (code : FaultCode) (info : Nat) : (raise op code info s).grid = s.grid := rfl
@[simp] theorem raise_draws (op : Byte) (code : FaultCode) (info : Nat) : (raise op code info s).draws = s.draws := rfl
@[simp] theorem raise_resets (op : Byte) (code : FaultCode) (info : Nat) : (raise op code info s).resets = s.resets := rfl
@[simp] theorem raise_pending (op : Byte) (code : FaultCode) (info : Nat) : (raise op code info s).pending = s.pending := rfl
@[simp] theorem raise_replies (op : Byte) (code : FaultCode) (info : Nat) : (raise op code info s).replies = s.replies := rfl

@[simp] theorem clearFault_status : (clearFault s).status = Status.clear := rfl
@[simp] theorem clearFault_r0 : (clearFault s).r0 = s.r0 := rfl
@[simp] theorem clearFault_r1 : (clearFault s).r1 = s.r1 := rfl
@[simp] theorem clearFault_r2 : (clearFault s).r2 = s.r2 := rfl
@[simp] theorem clearFault_len0 : (clearFault s).len0 = s.len0 := rfl
@[simp] theorem clearFault_len1 : (clearFault s).len1 = s.len1 := rfl
@[simp] theorem clearFault_blen : (clearFault s).blen = s.blen := rfl
@[simp] theorem clearFault_cfg : (clearFault s).cfg = s.cfg := rfl
@[simp] theorem clearFault_mem : (clearFault s).mem = s.mem := rfl
@[simp] theorem clearFault_grid : (clearFault s).grid = s.grid := rfl
@[simp] theorem clearFault_draws : (clearFault s).draws = s.draws := rfl
@[simp] theorem clearFault_resets : (clearFault s).resets = s.resets := rfl
@[simp] theorem clearFault_pending : (clearFault s).pending = s.pending := rfl
@[simp] theorem clearFault_replies : (clearFault s).replies = s.replies := rfl

@[simp] theorem setR0_status (n : Nat) : (setR0 n s).status = s.status := rfl
@[simp] theorem setR0_r0 (n : Nat) : (setR0 n s).r0 = word n := rfl
@[simp] theorem setR0_r1 (n : Nat) : (setR0 n s).r1 = s.r1 := rfl
@[simp] theorem setR0_r2 (n : Nat) : (setR0 n s).r2 = s.r2 := rfl
@[simp] theorem setR0_len0 (n : Nat) : (setR0 n s).len0 = s.len0 := rfl
@[simp] theorem setR0_len1 (n : Nat) : (setR0 n s).len1 = s.len1 := rfl
@[simp] theorem setR0_blen (n : Nat) : (setR0 n s).blen = s.blen := rfl
@[simp] theorem setR0_cfg (n : Nat) : (setR0 n s).cfg = s.cfg := rfl
@[simp] theorem setR0_mem (n : Nat) : (setR0 n s).mem = s.mem := rfl
@[simp] theorem setR0_grid (n : Nat) : (setR0 n s).grid = s.grid := rfl
@[simp] theorem setR0_draws (n : Nat) : (setR0 n s).draws = s.draws := rfl
@[simp] theorem setR0_resets (n : Nat) : (setR0 n s).resets = s.resets := rfl
@[simp] theorem setR0_pending (n : Nat) : (setR0 n s).pending = s.pending := rfl
@[simp] theorem setR0_replies (n : Nat) : (setR0 n s).replies = s.replies := rfl

@[simp] theorem setR012_status (n0 n1 n2 : Nat) : (setR012 n0 n1 n2 s).status = s.status := rfl
@[simp] theorem setR012_r0 (n0 n1 n2 : Nat) : (setR012 n0 n1 n2 s).r0 = word n0 := rfl
@[simp] theorem setR012_r1 (n0 n1 n2 : Nat) : (setR012 n0 n1 n2 s).r1 = word n1 := rfl
@[simp] theorem setR012_r2 (n0 n1 n2 : Nat) : (setR012 n0 n1 n2 s).r2 = word n2 := rfl
@[simp] theorem setR012_len0 (n0 n1 n2 : Nat) : (setR012 n0 n1 n2 s).len0 = s.len0 := rfl
@[simp] theorem setR012_len1 (n0 n1 n2 : Nat) : (setR012 n0 n1 n2 s).len1 = s.len1 := rfl
@[simp] theorem setR012_blen (n0 n1 n2 : Nat) : (setR012 n0 n1 n2 s).blen = s.blen := rfl
@[simp] theorem setR012_cfg (n0 n1 n2 : Nat) : (setR012 n0 n1 n2 s).cfg = s.cfg := rfl
@[simp] theorem setR012_mem (n0 n1 n2 : Nat) : (setR012 n0 n1 n2 s).mem = s.mem := rfl
@[simp] theorem setR012_grid (n0 n1 n2 : Nat) : (setR012 n0 n1 n2 s).grid = s.grid := rfl
@[simp] theorem setR012_draws (n0 n1 n2 : Nat) : (setR012 n0 n1 n2 s).draws = s.draws := rfl
@[simp] theorem setR012_resets (n0 n1 n2 : Nat) : (setR012 n0 n1 n2 s).resets = s.resets := rfl
@[simp] theorem setR012_pending (n0 n1 n2 : Nat) : (setR012 n0 n1 n2 s).pending = s.pending := rfl
@[simp] theorem setR012_replies (n0 n1 n2 : Nat) : (setR012 n0 n1 n2 s).replies = s.replies := rfl

@[simp] theorem writeBuf_status (b : Buffer) (o : Nat) (vs : List Byte) : (writeBuf b o vs s).status = s.status := rfl
@[simp] theorem writeBuf_r0 (b : Buffer) (o : Nat) (vs : List Byte) : (writeBuf b o vs s).r0 = s.r0 := rfl
@[simp] theorem writeBuf_r1 (b : Buffer) (o : Nat) (vs : List Byte) : (writeBuf b o vs s).r1 = s.r1 := rfl
@[simp] theorem writeBuf_r2 (b : Buffer) (o : Nat) (vs : List Byte) : (writeBuf b o vs s).r2 = s.r2 := rfl
@[simp] theorem writeBuf_len0 (b : Buffer) (o : Nat) (vs : List Byte) : (writeBuf b o vs s).len0 = s.len0 := rfl
@[simp] theorem writeBuf_len1 (b : Buffer) (o : Nat) (vs : List Byte) : (writeBuf b o vs s).len1 = s.len1 := rfl
@[simp] theorem writeBuf_blen (b : Buffer) (o : Nat) (vs : List Byte) : (writeBuf b o vs s).blen = s.blen := rfl
@[simp] theorem writeBuf_cfg (b : Buffer) (o : Nat) (vs : List Byte) : (writeBuf b o vs s).cfg = s.cfg := rfl
@[simp] theorem writeBuf_mem (b : Buffer) (o : Nat) (vs : List Byte) : (writeBuf b o vs s).mem = s.mem.writeBytes (b.base + o) vs := rfl
@[simp] theorem writeBuf_grid (b : Buffer) (o : Nat) (vs : List Byte) : (writeBuf b o vs s).grid = s.grid := rfl
@[simp] theorem writeBuf_draws (b : Buffer) (o : Nat) (vs : List Byte) : (writeBuf b o vs s).draws = s.draws := rfl
@[simp] theorem writeBuf_resets (b : Buffer) (o : Nat) (vs : List Byte) : (writeBuf b o vs s).resets = s.resets := rfl
@[simp] theorem writeBuf_pending (b : Buffer) (o : Nat) (vs : List Byte) : (writeBuf b o vs s).pending = s.pending := rfl
@[simp] theorem writeBuf_replies (b : Buffer) (o : Nat) (vs : List Byte) : (writeBuf b o vs s).replies = s.replies := rfl

@[simp] theorem writeGrid_status (bits : List Bool) : (writeGrid bits s).status = s.status := rfl
@[simp] theorem writeGrid_r0 (bits : List Bool) : (writeGrid bits s).r0 = s.r0 := rfl
@[simp] theorem writeGrid_r1 (bits : List Bool) : (writeGrid bits s).r1 = s.r1 := rfl
@[simp] theorem writeGrid_r2 (bits : List Bool) : (writeGrid bits s).r2 = s.r2 := rfl
@[simp] theorem writeGrid_len0 (bits : List Bool) : (writeGrid bits s).len0 = s.len0 := rfl
@[simp] theorem writeGrid_len1 (bits : List Bool) : (writeGrid bits s).len1 = s.len1 := rfl
@[simp] theorem writeGrid_blen (bits : List Bool) : (writeGrid bits s).blen = s.blen := rfl
@[simp] theorem writeGrid_cfg (bits : List Bool) : (writeGrid bits s).cfg = s.cfg := rfl
@[simp] theorem writeGrid_mem (bits : List Bool) : (writeGrid bits s).mem = s.mem := rfl
@[simp] theorem writeGrid_grid (bits : List Bool) : (writeGrid bits s).grid = bits ++ s.grid.drop bits.length := rfl
@[simp] theorem writeGrid_draws (bits : List Bool) : (writeGrid bits s).draws = s.draws := rfl
@[simp] theorem writeGrid_resets (bits : List Bool) : (writeGrid bits s).resets = s.resets := rfl
@[simp] theorem writeGrid_pending (bits : List Bool) : (writeGrid bits s).pending = s.pending := rfl
@[simp] theorem writeGrid_replies (bits : List Bool) : (writeGrid bits s).replies = s.replies := rfl

@[simp] theorem selectLayout_status (v : Nat) (l : Level) : (selectLayout v l s).status = s.status := rfl
@[simp] theorem selectLayout_r0 (v : Nat) (l : Level) : (selectLayout v l s).r0 = s.r0 := rfl
@[simp] theorem selectLayout_r1 (v : Nat) (l : Level) : (selectLayout v l s).r1 = s.r1 := rfl
@[simp] theorem selectLayout_r2 (v : Nat) (l : Level) : (selectLayout v l s).r2 = s.r2 := rfl
@[simp] theorem selectLayout_len0 (v : Nat) (l : Level) : (selectLayout v l s).len0 = s.len0 := rfl
@[simp] theorem selectLayout_len1 (v : Nat) (l : Level) : (selectLayout v l s).len1 = s.len1 := rfl
@[simp] theorem selectLayout_blen (v : Nat) (l : Level) : (selectLayout v l s).blen = s.blen := rfl
@[simp] theorem selectLayout_cfg (v : Nat) (l : Level) : (selectLayout v l s).cfg = { s.cfg with ver := BitVec.ofNat 6 v, ecl := l, layv := true, gridv := false } := rfl
@[simp] theorem selectLayout_mem (v : Nat) (l : Level) : (selectLayout v l s).mem = s.mem := rfl
@[simp] theorem selectLayout_grid (v : Nat) (l : Level) : (selectLayout v l s).grid = s.grid := rfl
@[simp] theorem selectLayout_draws (v : Nat) (l : Level) : (selectLayout v l s).draws = s.draws := rfl
@[simp] theorem selectLayout_resets (v : Nat) (l : Level) : (selectLayout v l s).resets = s.resets := rfl
@[simp] theorem selectLayout_pending (v : Nat) (l : Level) : (selectLayout v l s).pending = s.pending := rfl
@[simp] theorem selectLayout_replies (v : Nat) (l : Level) : (selectLayout v l s).replies = s.replies := rfl

@[simp] theorem selectMask_status (m : Nat) : (selectMask m s).status = s.status := rfl
@[simp] theorem selectMask_r0 (m : Nat) : (selectMask m s).r0 = s.r0 := rfl
@[simp] theorem selectMask_r1 (m : Nat) : (selectMask m s).r1 = s.r1 := rfl
@[simp] theorem selectMask_r2 (m : Nat) : (selectMask m s).r2 = s.r2 := rfl
@[simp] theorem selectMask_len0 (m : Nat) : (selectMask m s).len0 = s.len0 := rfl
@[simp] theorem selectMask_len1 (m : Nat) : (selectMask m s).len1 = s.len1 := rfl
@[simp] theorem selectMask_blen (m : Nat) : (selectMask m s).blen = s.blen := rfl
@[simp] theorem selectMask_cfg (m : Nat) : (selectMask m s).cfg = { s.cfg with msk := BitVec.ofNat 3 m, mskv := true } := rfl
@[simp] theorem selectMask_mem (m : Nat) : (selectMask m s).mem = s.mem := rfl
@[simp] theorem selectMask_grid (m : Nat) : (selectMask m s).grid = s.grid := rfl
@[simp] theorem selectMask_draws (m : Nat) : (selectMask m s).draws = s.draws := rfl
@[simp] theorem selectMask_resets (m : Nat) : (selectMask m s).resets = s.resets := rfl
@[simp] theorem selectMask_pending (m : Nat) : (selectMask m s).pending = s.pending := rfl
@[simp] theorem selectMask_replies (m : Nat) : (selectMask m s).replies = s.replies := rfl

@[simp] theorem markGrid_status : (markGrid s).status = s.status := rfl
@[simp] theorem markGrid_r0 : (markGrid s).r0 = s.r0 := rfl
@[simp] theorem markGrid_r1 : (markGrid s).r1 = s.r1 := rfl
@[simp] theorem markGrid_r2 : (markGrid s).r2 = s.r2 := rfl
@[simp] theorem markGrid_len0 : (markGrid s).len0 = s.len0 := rfl
@[simp] theorem markGrid_len1 : (markGrid s).len1 = s.len1 := rfl
@[simp] theorem markGrid_blen : (markGrid s).blen = s.blen := rfl
@[simp] theorem markGrid_cfg : (markGrid s).cfg = { s.cfg with gridv := true } := rfl
@[simp] theorem markGrid_mem : (markGrid s).mem = s.mem := rfl
@[simp] theorem markGrid_grid : (markGrid s).grid = s.grid := rfl
@[simp] theorem markGrid_draws : (markGrid s).draws = s.draws := rfl
@[simp] theorem markGrid_resets : (markGrid s).resets = s.resets := rfl
@[simp] theorem markGrid_pending : (markGrid s).pending = s.pending := rfl
@[simp] theorem markGrid_replies : (markGrid s).replies = s.replies := rfl

@[simp] theorem answer_status (r : Reply) : (answer r s).status = s.status := rfl
@[simp] theorem answer_r0 (r : Reply) : (answer r s).r0 = s.r0 := rfl
@[simp] theorem answer_r1 (r : Reply) : (answer r s).r1 = s.r1 := rfl
@[simp] theorem answer_r2 (r : Reply) : (answer r s).r2 = s.r2 := rfl
@[simp] theorem answer_len0 (r : Reply) : (answer r s).len0 = s.len0 := rfl
@[simp] theorem answer_len1 (r : Reply) : (answer r s).len1 = s.len1 := rfl
@[simp] theorem answer_blen (r : Reply) : (answer r s).blen = s.blen := rfl
@[simp] theorem answer_cfg (r : Reply) : (answer r s).cfg = s.cfg := rfl
@[simp] theorem answer_mem (r : Reply) : (answer r s).mem = s.mem := rfl
@[simp] theorem answer_grid (r : Reply) : (answer r s).grid = s.grid := rfl
@[simp] theorem answer_draws (r : Reply) : (answer r s).draws = s.draws := rfl
@[simp] theorem answer_resets (r : Reply) : (answer r s).resets = s.resets := rfl
@[simp] theorem answer_pending (r : Reply) : (answer r s).pending = s.pending := rfl
@[simp] theorem answer_replies (r : Reply) : (answer r s).replies = s.replies ++ [r] := rfl

@[simp] theorem resetUnit_status : (resetUnit s).status = Status.clear := rfl
@[simp] theorem resetUnit_r0 : (resetUnit s).r0 = 0 := rfl
@[simp] theorem resetUnit_r1 : (resetUnit s).r1 = 0 := rfl
@[simp] theorem resetUnit_r2 : (resetUnit s).r2 = 0 := rfl
@[simp] theorem resetUnit_len0 : (resetUnit s).len0 = 0 := rfl
@[simp] theorem resetUnit_len1 : (resetUnit s).len1 = 0 := rfl
@[simp] theorem resetUnit_blen : (resetUnit s).blen = 0 := rfl
@[simp] theorem resetUnit_cfg : (resetUnit s).cfg = Cfg.reset := rfl
@[simp] theorem resetUnit_mem : (resetUnit s).mem = [] := rfl
@[simp] theorem resetUnit_grid : (resetUnit s).grid = [] := rfl
@[simp] theorem resetUnit_draws : (resetUnit s).draws = s.draws := rfl
@[simp] theorem resetUnit_resets : (resetUnit s).resets = s.resets + 1 := rfl
@[simp] theorem resetUnit_pending : (resetUnit s).pending = s.pending := rfl
@[simp] theorem resetUnit_replies : (resetUnit s).replies = s.replies := rfl

@[simp] theorem enqueueCommand_status (w : Word) : (enqueueCommand w s).status = s.status := rfl
@[simp] theorem enqueueCommand_r0 (w : Word) : (enqueueCommand w s).r0 = s.r0 := rfl
@[simp] theorem enqueueCommand_r1 (w : Word) : (enqueueCommand w s).r1 = s.r1 := rfl
@[simp] theorem enqueueCommand_r2 (w : Word) : (enqueueCommand w s).r2 = s.r2 := rfl
@[simp] theorem enqueueCommand_len0 (w : Word) : (enqueueCommand w s).len0 = s.len0 := rfl
@[simp] theorem enqueueCommand_len1 (w : Word) : (enqueueCommand w s).len1 = s.len1 := rfl
@[simp] theorem enqueueCommand_blen (w : Word) : (enqueueCommand w s).blen = s.blen := rfl
@[simp] theorem enqueueCommand_cfg (w : Word) : (enqueueCommand w s).cfg = s.cfg := rfl
@[simp] theorem enqueueCommand_mem (w : Word) : (enqueueCommand w s).mem = s.mem := rfl
@[simp] theorem enqueueCommand_grid (w : Word) : (enqueueCommand w s).grid = s.grid := rfl
@[simp] theorem enqueueCommand_draws (w : Word) : (enqueueCommand w s).draws = s.draws := rfl
@[simp] theorem enqueueCommand_resets (w : Word) : (enqueueCommand w s).resets = s.resets := rfl
@[simp] theorem enqueueCommand_pending (w : Word) : (enqueueCommand w s).pending = .regWrite 0 w :: s.pending := rfl
@[simp] theorem enqueueCommand_replies (w : Word) : (enqueueCommand w s).replies = s.replies := rfl

@[simp] theorem writeReg_status (i : Fin 16) (v : Word) : (writeReg i v s).status = s.status := by
  unfold writeReg; split_ifs <;> rfl
@[simp] theorem writeReg_r0 (i : Fin 16) (v : Word) : (writeReg i v s).r0 = s.r0 := by
  unfold writeReg; split_ifs <;> rfl
@[simp] theorem writeReg_r1 (i : Fin 16) (v : Word) : (writeReg i v s).r1 = s.r1 := by
  unfold writeReg; split_ifs <;> rfl
@[simp] theorem writeReg_r2 (i : Fin 16) (v : Word) : (writeReg i v s).r2 = s.r2 := by
  unfold writeReg; split_ifs <;> rfl
@[simp] theorem writeReg_cfg (i : Fin 16) (v : Word) : (writeReg i v s).cfg = s.cfg := by
  unfold writeReg; split_ifs <;> rfl
@[simp] theorem writeReg_mem (i : Fin 16) (v : Word) : (writeReg i v s).mem = s.mem := by
  unfold writeReg; split_ifs <;> rfl
@[simp] theorem writeReg_grid (i : Fin 16) (v : Word) : (writeReg i v s).grid = s.grid := by
  unfold writeReg; split_ifs <;> rfl
@[simp] theorem writeReg_draws (i : Fin 16) (v : Word) : (writeReg i v s).draws = s.draws := by
  unfold writeReg; split_ifs <;> rfl
@[simp] theorem writeReg_resets (i : Fin 16) (v : Word) : (writeReg i v s).resets = s.resets := by
  unfold writeReg; split_ifs <;> rfl
@[simp] theorem writeReg_pending (i : Fin 16) (v : Word) : (writeReg i v s).pending = s.pending := by
  unfold writeReg; split_ifs <;> rfl
@[simp] theorem writeReg_replies (i : Fin 16) (v : Word) : (writeReg i v s).replies = s.replies := by
  unfold writeReg; split_ifs <;> rfl

@[simp] theorem hostMemWrite_status (a : BitVec 16) (v : Byte) : (hostMemWrite a v s).status = s.status := by
  unfold hostMemWrite; split_ifs <;> rfl
@[simp] theorem hostMemWrite_r0 (a : BitVec 16) (v : Byte) : (hostMemWrite a v s).r0 = s.r0 := by
  unfold hostMemWrite; split_ifs <;> rfl
@[simp] theorem hostMemWrite_r1 (a : BitVec 16) (v : Byte) : (hostMemWrite a v s).r1 = s.r1 := by
  unfold hostMemWrite; split_ifs <;> rfl
@[simp] theorem hostMemWrite_r2 (a : BitVec 16) (v : Byte) : (hostMemWrite a v s).r2 = s.r2 := by
  unfold hostMemWrite; split_ifs <;> rfl
@[simp] theorem hostMemWrite_len0 (a : BitVec 16) (v : Byte) : (hostMemWrite a v s).len0 = s.len0 := by
  unfold hostMemWrite; split_ifs <;> rfl
@[simp] theorem hostMemWrite_len1 (a : BitVec 16) (v : Byte) : (hostMemWrite a v s).len1 = s.len1 := by
  unfold hostMemWrite; split_ifs <;> rfl
@[simp] theorem hostMemWrite_blen (a : BitVec 16) (v : Byte) : (hostMemWrite a v s).blen = s.blen := by
  unfold hostMemWrite; split_ifs <;> rfl
@[simp] theorem hostMemWrite_cfg (a : BitVec 16) (v : Byte) : (hostMemWrite a v s).cfg = s.cfg := by
  unfold hostMemWrite; split_ifs <;> rfl
@[simp] theorem hostMemWrite_grid (a : BitVec 16) (v : Byte) : (hostMemWrite a v s).grid = s.grid := by
  unfold hostMemWrite; split_ifs <;> rfl
@[simp] theorem hostMemWrite_draws (a : BitVec 16) (v : Byte) : (hostMemWrite a v s).draws = s.draws := by
  unfold hostMemWrite; split_ifs <;> rfl
@[simp] theorem hostMemWrite_resets (a : BitVec 16) (v : Byte) : (hostMemWrite a v s).resets = s.resets := by
  unfold hostMemWrite; split_ifs <;> rfl
@[simp] theorem hostMemWrite_pending (a : BitVec 16) (v : Byte) : (hostMemWrite a v s).pending = s.pending := by
  unfold hostMemWrite; split_ifs <;> rfl
@[simp] theorem hostMemWrite_replies (a : BitVec 16) (v : Byte) : (hostMemWrite a v s).replies = s.replies := by
  unfold hostMemWrite; split_ifs <;> rfl

/-! The memory and the reset counter are all a byte read depends on; the grid and the counter all a GRID bit does. -/

/-- Two states with the same buffer content since the same reset read the same bytes. -/
theorem readByte_congr {s t : State} (hm : t.mem = s.mem) (hr : t.resets = s.resets) (a : Nat) :
    readByte t a = readByte s a := by
  simp [readByte, hm, hr]

/-- Two states with the same buffer content since the same reset read the same buffers. -/
theorem readBuf_congr {s t : State} (hm : t.mem = s.mem) (hr : t.resets = s.resets) (b : Buffer) (n : Nat) :
    readBuf b n t = readBuf b n s := by
  simp [readBuf, readByte_congr hm hr]

/-- Two states with the same GRID since the same reset read the same bits. -/
theorem gridBit_congr {s t : State} (hg : t.grid = s.grid) (hr : t.resets = s.resets) (i : Nat) :
    gridBit t i = gridBit s i := by
  simp [gridBit, hg, hr]

end Sys2Proof.Machine
end

