-- ==== Sys2Proof/Laws/Commands.lean ====
section
/-! SUPPORT. One inversion lemma per command: what a next state of it can be, guards included. Every frame, invariant and
result of a command is a case analysis over these, with no unfolding of the command. Where a command depends on the tables the
lemma is about the form that takes them, and the command's own is its instance. -/

namespace Sys2Proof.Machine

/-- The next state of a raised fault. -/
theorem takeFault_next {op : Byte} {code : FaultCode} {info : Nat} {s t : State} (h : takeFault op code info s = .next t) :
    t = raise op code info s := by
  simpa [takeFault] using h.symm

theorem execNop_next {s t : State} (h : execNop s = .next t) : t = s := by simpa [execNop] using h.symm

theorem execClrf_next {s t : State} (h : execClrf s = .next t) : t = clearFault s := by simpa [execClrf] using h.symm

theorem execGfadd_next {a b : Byte} {s t : State} (h : execGfadd a b s = .next t) : t = setR0 (gfAdd a b).toNat s := by
  simpa [execGfadd] using h.symm

theorem execGfmul_next {a b : Byte} {s t : State} (h : execGfmul a b s = .next t) : t = setR0 (gfMul a b).toNat s := by
  simpa [execGfmul] using h.symm

theorem execGfexp_next {i : Nat} {s t : State} (h : execGfexp i s = .next t) : t = setR0 (gfExp (i % 255)).toNat s := by
  simpa [execGfexp] using h.symm

theorem execGflog_next {a : Byte} {s t : State} (h : execGflog a s = .next t) : t = setR0 (logImage a) s := by
  simpa [execGflog] using h.symm

theorem execGfrow_next {c : Byte} {s t : State} (h : execGfrow c s = .next t) : t = writeBuf .row 0 (gfRow c) s := by
  simpa [execGfrow] using h.symm

theorem execGfgen_next {d : Nat} {s t : State} (h : execGfgen d s = .next t) :
    ((d < 1 ∨ d > Config.genMax) ∧ t = raise opGfgen .range d s) ∨
    (1 ≤ d ∧ d ≤ Config.genMax ∧ t = setR0 d (writeBuf .row 0 (gfGen d) s)) := by
  unfold execGfgen at h
  split_ifs at h with hd
  · exact .inl ⟨hd, takeFault_next h⟩
  · refine .inr ⟨by omega, by omega, ?_⟩
    simpa using h.symm

/-- A pair is supported when its message is no longer than RS_MAXLEN, for a redundancy length of 1 to 30. -/
theorem rsSupported_iff {chosen : Nat → Nat} {n e : Nat} {q : QrTables} :
    rsSupported chosen n e q = true ↔ 1 ≤ e ∧ e ≤ Config.genMax ∧ 1 ≤ n ∧ n ≤ rsMaxLen chosen e q := by
  simp [rsSupported, rsMaxLen, and_assoc]

theorem rsencWithin_next {chosen : Nat → Nat} {len eccLen : Nat} {s t : State} {q : QrTables}
    (h : rsencWithin chosen len eccLen s q = .next t) :
    (rsSupported chosen len eccLen q = false ∧ t = raise opRsenc .rsunsup (pairInfo len eccLen) s) ∨
    (rsSupported chosen len eccLen q = true ∧ t = setR0 eccLen (writeBuf .ecc 0 (rs (readBuf .msg len s) eccLen) s)) := by
  unfold rsencWithin at h
  split_ifs at h with hs
  · exact .inr ⟨hs, by simpa using h.symm⟩
  · exact .inl ⟨by simpa using hs, takeFault_next h⟩

theorem execRsenc_next {len eccLen : Nat} {s t : State} (h : execRsenc len eccLen s = .next t) :
    (rsSupported Config.rsMaxLen len eccLen = false ∧ t = raise opRsenc .rsunsup (pairInfo len eccLen) s) ∨
    (rsSupported Config.rsMaxLen len eccLen = true ∧
      t = setR0 eccLen (writeBuf .ecc 0 (rs (readBuf .msg len s) eccLen) s)) := rsencWithin_next h

theorem rsbitWithin_next {chosen : Nat → Nat} {b p e : Nat} {s t : State} {q : QrTables}
    (h : rsbitWithin chosen b p e s q = .next t) :
    (7 < b ∧ t = raise opRsbit .range b s) ∨
    (b ≤ 7 ∧ rsSupported chosen (p + 1) e q = false ∧ t = raise opRsbit .rsunsup (pairInfo (p + 1) e) s) ∨
    (b ≤ 7 ∧ rsSupported chosen (p + 1) e q = true ∧ t = setR0 e (writeBuf .ecc 0 (sbc b p e) s)) := by
  unfold rsbitWithin at h
  split_ifs at h with hb hs
  · exact .inl ⟨hb, takeFault_next h⟩
  · exact .inr (.inr ⟨by omega, hs, by simpa using h.symm⟩)
  · exact .inr (.inl ⟨by omega, by simpa using hs, takeFault_next h⟩)

theorem execRsbit_next {b p e : Nat} {s t : State} (h : execRsbit b p e s = .next t) :
    (7 < b ∧ t = raise opRsbit .range b s) ∨
    (b ≤ 7 ∧ rsSupported Config.rsMaxLen (p + 1) e = false ∧ t = raise opRsbit .rsunsup (pairInfo (p + 1) e) s) ∨
    (b ≤ 7 ∧ rsSupported Config.rsMaxLen (p + 1) e = true ∧ t = setR0 e (writeBuf .ecc 0 (sbc b p e) s)) :=
  rsbitWithin_next h

theorem execLayout_next {v e : Nat} {s t : State} (h : execLayout v e s = .next t) :
    ((v < 1 ∨ v > Config.maxVersion) ∧ t = raise opLayout .version v s) ∨
    (1 ≤ v ∧ v ≤ Config.maxVersion ∧ levelOf? e = none ∧ t = raise opLayout .eclevel e s) ∨
    (1 ≤ v ∧ v ≤ Config.maxVersion ∧ ∃ l, levelOf? e = some l ∧ t = selectLayout v l s) := by
  unfold execLayout at h
  split_ifs at h with hv
  · exact .inl ⟨hv, takeFault_next h⟩
  · split at h
    case h_1 hl => exact .inr (.inl ⟨by omega, by omega, hl, takeFault_next h⟩)
    case h_2 l hl => exact .inr (.inr ⟨by omega, by omega, l, hl, by simpa using h.symm⟩)

theorem execSetmask_next {m : Nat} {s t : State} (h : execSetmask m s = .next t) :
    (7 < m ∧ t = raise opSetmask .mask m s) ∨ (m ≤ 7 ∧ t = selectMask m s) := by
  unfold execSetmask at h
  split_ifs at h with hm
  · exact .inl ⟨hm, takeFault_next h⟩
  · exact .inr ⟨by omega, by simpa using h.symm⟩

theorem cellUnder_next {q : QrTables} {x y : Nat} {s t : State} (h : cellUnder q x y s = .next t) :
    (∃ code info, code ≠ .assert ∧ t = raise opCell code info s) ∨
    (s.cfg.layv = true ∧ x < curSide s ∧ y < curSide s ∧
      t = setR012 (curCell s x y q).code (curCell s x y q).r1 (curCell s x y q).r2 s) := by
  unfold cellUnder at h
  split_ifs at h with hl hx hy
  · exact .inl ⟨_, _, by decide, takeFault_next h⟩
  · exact .inl ⟨_, _, by decide, takeFault_next h⟩
  · exact .inl ⟨_, _, by decide, takeFault_next h⟩
  · exact .inr ⟨by simpa using hl, by omega, by omega, by simpa using h.symm⟩

theorem execCell_next {x y : Nat} {s t : State} (h : execCell x y s = .next t) :
    (∃ code info, code ≠ .assert ∧ t = raise opCell code info s) ∨
    (s.cfg.layv = true ∧ x < curSide s ∧ y < curSide s ∧
      t = setR012 (curCell s x y).code (curCell s x y).r1 (curCell s x y).r2 s) :=
  cellUnder_next h

theorem maskbitUnder_next {q : QrTables} {x y : Nat} {s t : State} (h : maskbitUnder q x y s = .next t) :
    (∃ code info, code ≠ .assert ∧ t = raise opMaskbit code info s) ∨
    (s.cfg.layv = true ∧ s.cfg.mskv = true ∧ x < curSide s ∧ y < curSide s ∧
      t = setR0 (maskArr (curVersion s) s.cfg.ecl (curMask s) x y q).toNat s) := by
  unfold maskbitUnder at h
  split_ifs at h with hl hm hx hy
  · exact .inl ⟨_, _, by decide, takeFault_next h⟩
  · exact .inl ⟨_, _, by decide, takeFault_next h⟩
  · exact .inl ⟨_, _, by decide, takeFault_next h⟩
  · exact .inl ⟨_, _, by decide, takeFault_next h⟩
  · exact .inr ⟨by simpa using hl, by simpa using hm, by omega, by omega, by simpa using h.symm⟩

theorem execMaskbit_next {x y : Nat} {s t : State} (h : execMaskbit x y s = .next t) :
    (∃ code info, code ≠ .assert ∧ t = raise opMaskbit code info s) ∨
    (s.cfg.layv = true ∧ s.cfg.mskv = true ∧ x < curSide s ∧ y < curSide s ∧
      t = setR0 (maskArr (curVersion s) s.cfg.ecl (curMask s) x y).toNat s) :=
  maskbitUnder_next h

theorem execFmtinfo_next {s t : State} (h : execFmtinfo s = .next t) :
    (∃ code info, code ≠ .assert ∧ t = raise opFmtinfo code info s) ∨
    (s.cfg.layv = true ∧ s.cfg.mskv = true ∧ t = setR0 (fmtWord s.cfg.ecl (curMask s)) s) := by
  unfold execFmtinfo at h
  split_ifs at h with hl hm
  · exact .inl ⟨_, _, by decide, takeFault_next h⟩
  · exact .inl ⟨_, _, by decide, takeFault_next h⟩
  · exact .inr ⟨by simpa using hl, by simpa using hm, by simpa using h.symm⟩

theorem execVerinfo_next {s t : State} (h : execVerinfo s = .next t) :
    (∃ code info, code ≠ .assert ∧ t = raise opVerinfo code info s) ∨
    (s.cfg.layv = true ∧ t = setR0 (if curVersion s ≥ 7 then verWord (curVersion s) else 0) s) := by
  unfold execVerinfo at h
  split at h
  · exact .inl ⟨_, _, by decide, takeFault_next h⟩
  next hl => exact .inr ⟨by simpa using hl, by simpa using h.symm⟩

theorem blkinfoUnder_next {q : QrTables} {k : Nat} {s t : State} (h : blkinfoUnder q k s = .next t) :
    (∃ code info, code ≠ .assert ∧ t = raise opBlkinfo code info s) ∨
    (s.cfg.layv = true ∧ k < nblocks (curRow s q) ∧
      t = setR012 (dataLen (curRow s q) k) (curRow s q).eccLen (dataOff (curRow s q) k) s) := by
  unfold blkinfoUnder at h
  split_ifs at h with hl hk
  · exact .inl ⟨_, _, by decide, takeFault_next h⟩
  · exact .inl ⟨_, _, by decide, takeFault_next h⟩
  · exact .inr ⟨by simpa using hl, by omega, by simpa using h.symm⟩

theorem execBlkinfo_next {k : Nat} {s t : State} (h : execBlkinfo k s = .next t) :
    (∃ code info, code ≠ .assert ∧ t = raise opBlkinfo code info s) ∨
    (s.cfg.layv = true ∧ k < nblocks (curRow s) ∧
      t = setR012 (dataLen (curRow s) k) (curRow s).eccLen (dataOff (curRow s) k) s) :=
  blkinfoUnder_next h

theorem capinfoUnder_next {q : QrTables} {s t : State} (h : capinfoUnder q s = .next t) :
    (∃ code info, code ≠ .assert ∧ t = raise opCapinfo code info s) ∨
    (s.cfg.layv = true ∧
      t = setR012 (nblocks (curRow s q)) (dataTotal (curRow s q)) (totalCodewords (curRow s q)) s) := by
  unfold capinfoUnder at h
  split at h
  · exact .inl ⟨_, _, by decide, takeFault_next h⟩
  next hl => exact .inr ⟨by simpa using hl, by simpa using h.symm⟩

theorem execCapinfo_next {s t : State} (h : execCapinfo s = .next t) :
    (∃ code info, code ≠ .assert ∧ t = raise opCapinfo code info s) ∨
    (s.cfg.layv = true ∧
      t = setR012 (nblocks (curRow s)) (dataTotal (curRow s)) (totalCodewords (curRow s)) s) :=
  capinfoUnder_next h

theorem encFilling_next {pad : PadFill} {e m : Nat} {s t : State} {q : QrTables}
    (h : encFilling pad e m s q = .next t) :
    (∃ code info, code ≠ .assert ∧ t = raise opEnc code info s) ∨
    (∃ l md v total segs, levelOf? e = some l ∧ modeOf? m = some md ∧ s.len0.toNat ≤ 8192 ∧
      firstUnfit md (payloadOf s) = none ∧ selectVersion l md (payloadOf s) q = some (v, total, segs) ∧
      t = placeStream pad v l (payloadOf s) total segs s q) := by
  unfold encFilling at h
  split at h
  · exact .inl ⟨_, _, by decide, takeFault_next h⟩
  next l hl =>
    split at h
    · exact .inl ⟨_, _, by decide, takeFault_next h⟩
    next md hm =>
      split at h
      · exact .inl ⟨_, _, by decide, takeFault_next h⟩
      next hp =>
        split at h
        · exact .inl ⟨_, _, by decide, takeFault_next h⟩
        next hu =>
          split at h
          · exact .inl ⟨_, _, by decide, takeFault_next h⟩
          next v total segs hv =>
            exact .inr ⟨l, md, v, total, segs, hl, hm, by simpa [payloadTooLong] using hp, hu, hv, by simpa using h.symm⟩

theorem execEnc_next {e m : Nat} {s t : State} (h : execEnc e m s = .next t) :
    (∃ code info, code ≠ .assert ∧ t = raise opEnc code info s) ∨
    (∃ l md v total segs, levelOf? e = some l ∧ modeOf? m = some md ∧ s.len0.toNat ≤ 8192 ∧
      firstUnfit md (payloadOf s) = none ∧ selectVersion l md (payloadOf s) = some (v, total, segs) ∧
      t = placeStream padFill v l (payloadOf s) total segs s) := encFilling_next h

theorem encvFilling_next {pad : PadFill} {v e m : Nat} {s t : State} {q : QrTables}
    (h : encvFilling pad v e m s q = .next t) :
    (∃ code info, code ≠ .assert ∧ t = raise opEncv code info s) ∨
    (∃ l md, 1 ≤ v ∧ v ≤ Config.maxVersion ∧ levelOf? e = some l ∧ modeOf? m = some md ∧ s.len0.toNat ≤ 8192 ∧
      firstUnfit md (payloadOf s) = none ∧ (segmentation md (payloadOf s) (tier v)).1 ≤ capBits v l q ∧
      t = placeStream pad v l (payloadOf s) (segmentation md (payloadOf s) (tier v)).1
        (segmentation md (payloadOf s) (tier v)).2 s q) := by
  unfold encvFilling at h
  split at h
  · exact .inl ⟨_, _, by decide, takeFault_next h⟩
  next hv =>
    split at h
    · exact .inl ⟨_, _, by decide, takeFault_next h⟩
    next l hl =>
      split at h
      · exact .inl ⟨_, _, by decide, takeFault_next h⟩
      next md hm =>
        split at h
        · exact .inl ⟨_, _, by decide, takeFault_next h⟩
        next hp =>
          split at h
          · exact .inl ⟨_, _, by decide, takeFault_next h⟩
          next hu =>
            dsimp only at h
            split at h
            · exact .inl ⟨_, _, by decide, takeFault_next h⟩
            next ht =>
              exact .inr ⟨l, md, by omega, by omega, hl, hm, by simpa [payloadTooLong] using hp, hu, by omega,
                by simpa using h.symm⟩

theorem execEncv_next {v e m : Nat} {s t : State} (h : execEncv v e m s = .next t) :
    (∃ code info, code ≠ .assert ∧ t = raise opEncv code info s) ∨
    (∃ l md, 1 ≤ v ∧ v ≤ Config.maxVersion ∧ levelOf? e = some l ∧ modeOf? m = some md ∧ s.len0.toNat ≤ 8192 ∧
      firstUnfit md (payloadOf s) = none ∧ (segmentation md (payloadOf s) (tier v)).1 ≤ capBits v l ∧
      t = placeStream padFill v l (payloadOf s) (segmentation md (payloadOf s) (tier v)).1
        (segmentation md (payloadOf s) (tier v)).2 s) := encvFilling_next h

theorem solveRaw_next {chosen draw : Nat → Nat} {k : Nat} {s t : State} {q : QrTables}
    (h : solveRaw chosen draw k s q = .next t) :
    (∃ code info, code ≠ .assert ∧ t = raise opSolveblk code info s) ∨
    (k = 0 ∧ rawLengthLegal .td s.len0.toNat = true ∧ rawLengthLegal .te s.len1.toNat = true ∧
      rsSupported chosen (s.len0.toNat / 8) (s.len1.toNat / 8) q = true ∧ badLabel s = none ∧
      t = placeSolution (rawTemplate s) (solveTemplate draw (rawTemplate s)) s) := by
  unfold solveRaw at h
  split_ifs at h with h1 h2 h3 h4
  · exact .inl ⟨_, _, by decide, takeFault_next h⟩
  · exact .inl ⟨_, _, by decide, takeFault_next h⟩
  · exact .inl ⟨_, _, by decide, takeFault_next h⟩
  · exact .inl ⟨_, _, by decide, takeFault_next h⟩
  · split at h
    · exact .inl ⟨_, _, by decide, takeFault_next h⟩
    next hb =>
      exact .inr ⟨by omega, by simpa using h2, by simpa using h3, by simpa using h4, hb, by simpa using h.symm⟩

theorem solveLayoutBlock_next {draw : Nat → Nat} {k : Nat} {s t : State} {q : QrTables}
    (h : solveLayoutBlock draw k s q = .next t) :
    (∃ code info, code ≠ .assert ∧ t = raise opSolveblk code info s) ∨
    (s.cfg.layv = true ∧ s.cfg.mskv = true ∧ k < nblocks (curRow s q) ∧ s.len0.toNat = 8 * dataLen (curRow s q) k ∧
      s.len1.toNat = 8 * (curRow s q).eccLen ∧ badLabel s = none ∧
      t = placeSolution (blockTemplate k s q) (solveTemplate draw (blockTemplate k s q))
        (writeBuf .data (dataOff (curRow s q) k) (packBytes (solveTemplate draw (blockTemplate k s q)).bits) s)) := by
  unfold solveLayoutBlock at h
  split_ifs at h with h1 h2 h3 h4 h5
  · exact .inl ⟨_, _, by decide, takeFault_next h⟩
  · exact .inl ⟨_, _, by decide, takeFault_next h⟩
  · exact .inl ⟨_, _, by decide, takeFault_next h⟩
  · exact .inl ⟨_, _, by decide, takeFault_next h⟩
  · exact .inl ⟨_, _, by decide, takeFault_next h⟩
  · split at h
    · exact .inl ⟨_, _, by decide, takeFault_next h⟩
    next hb =>
      exact .inr ⟨by simpa using h1, by simpa using h2, by omega, by omega, by omega, hb, by simpa using h.symm⟩

theorem buildUnder_next {q : QrTables} {s t : State} (h : buildUnder q s = .next t) :
    (∃ code info, code ≠ .assert ∧ t = raise opBuild code info s) ∨
    (s.cfg.layv = true ∧ s.cfg.mskv = true ∧ s.blen.toNat = 8 * dataTotal (curRow s q) ∧
      t = assembleSymbol (readBuf .bits (dataTotal (curRow s q)) s)
        (writeBuf .data 0 (readBuf .bits (dataTotal (curRow s q)) s) s) q) := by
  unfold buildUnder at h
  split_ifs at h with h1 h2 h3
  · exact .inl ⟨_, _, by decide, takeFault_next h⟩
  · exact .inl ⟨_, _, by decide, takeFault_next h⟩
  · exact .inl ⟨_, _, by decide, takeFault_next h⟩
  · exact .inr ⟨by simpa using h1, by simpa using h2, by omega, by simpa using h.symm⟩

theorem execBuild_next {s t : State} (h : execBuild s = .next t) :
    (∃ code info, code ≠ .assert ∧ t = raise opBuild code info s) ∨
    (s.cfg.layv = true ∧ s.cfg.mskv = true ∧ s.blen.toNat = 8 * dataTotal (curRow s) ∧
      t = assembleSymbol (readBuf .bits (dataTotal (curRow s)) s)
        (writeBuf .data 0 (readBuf .bits (dataTotal (curRow s)) s) s)) :=
  buildUnder_next h

theorem assembleUnder_next {q : QrTables} {s t : State} (h : assembleUnder q s = .next t) :
    (∃ code info, code ≠ .assert ∧ t = raise opAssemble code info s) ∨
    (s.cfg.layv = true ∧ s.cfg.mskv = true ∧ t = assembleSymbol (readBuf .data (dataTotal (curRow s q)) s) s q) := by
  unfold assembleUnder at h
  split_ifs at h with h1 h2
  · exact .inl ⟨_, _, by decide, takeFault_next h⟩
  · exact .inl ⟨_, _, by decide, takeFault_next h⟩
  · exact .inr ⟨by simpa using h1, by simpa using h2, by simpa using h.symm⟩

theorem execAssemble_next {s t : State} (h : execAssemble s = .next t) :
    (∃ code info, code ≠ .assert ∧ t = raise opAssemble code info s) ∨
    (s.cfg.layv = true ∧ s.cfg.mskv = true ∧ t = assembleSymbol (readBuf .data (dataTotal (curRow s)) s) s) :=
  assembleUnder_next h

theorem execGet_next {x y : Nat} {s t : State} (h : execGet x y s = .next t) :
    (∃ code info, code ≠ .assert ∧ t = raise opGet code info s) ∨
    (s.cfg.gridv = true ∧ x < curSide s ∧ y < curSide s ∧ t = setR0 (gridBit s (y * curSide s + x)).toNat s) := by
  unfold execGet at h
  split_ifs at h with h1 h2 h3
  · exact .inl ⟨_, _, by decide, takeFault_next h⟩
  · exact .inl ⟨_, _, by decide, takeFault_next h⟩
  · exact .inl ⟨_, _, by decide, takeFault_next h⟩
  · exact .inr ⟨by simpa using h1, by omega, by omega, by simpa using h.symm⟩

theorem execSize_next {s t : State} (h : execSize s = .next t) :
    (∃ code info, code ≠ .assert ∧ t = raise opSize code info s) ∨
    (s.cfg.gridv = true ∧ t = setR0 (curSide s) s) := by
  unfold execSize at h
  split at h
  · exact .inl ⟨_, _, by decide, takeFault_next h⟩
  next h1 => exact .inr ⟨by simpa using h1, by simpa using h.symm⟩

/-! The host port. -/

/-- What the issue of a word can leave: CLRF while a fault is recorded, nothing for any other word then, the effect of the
decoded command, or E_ILLCMD (R120). -/
theorem issueCommand_cases (w : Word) (s : State) :
    (faultRecorded s = true ∧ w = clrfWord ∧ issueCommand w s = exec .clrf s) ∨
    (faultRecorded s = true ∧ w ≠ clrfWord ∧ issueCommand w s = .next s) ∨
    (faultRecorded s = false ∧ ∃ i, decode w = .ok i ∧ issueCommand w s = exec i s) ∨
    (faultRecorded s = false ∧ ∃ e, decode w = .error e ∧
      issueCommand w s = .next (raise (fieldOp w) .illcmd (w.toNat % 2 ^ 16) s)) := by
  unfold issueCommand
  by_cases hf : faultRecorded s = true
  · by_cases hw : w = clrfWord
    · exact .inl ⟨hf, hw, by rw [if_pos hf, if_pos hw]⟩
    · exact .inr (.inl ⟨hf, hw, by rw [if_pos hf, if_neg hw]⟩)
  · have hf' : faultRecorded s = false := by simpa using hf
    rw [if_neg hf]
    cases hd : decode w with
    | ok i => exact .inr (.inr (.inl ⟨hf', i, rfl, rfl⟩))
    | error e => exact .inr (.inr (.inr ⟨hf', e, rfl, rfl⟩))

/-- What a step can leave: the same state when no action waits, else the outcome of the next action (R20). -/
theorem step_cases (s : State) :
    (s.pending = [] ∧ step s = .next s) ∨
    ∃ act rest, s.pending = act :: rest ∧ step s = perform act { s with pending := rest } := by
  unfold step performNext
  cases h : s.pending with
  | nil => exact .inl ⟨rfl, rfl⟩
  | cons act rest => exact .inr ⟨act, rest, rfl, rfl⟩

end Sys2Proof.Machine
end

