-- ==== Sys2Proof/Laws/Lengths.lean ====
section
/-! SUPPORT. How long the sequences are that the commands store, and the bounds of BLOCK_TABLE that keep every store inside
its buffer (spec/10_state.md R40, R41; spec/44_qr_tables.md R251, R252, R255). -/

namespace Sys2Proof.Machine

/-! GaloisField256 and ReedSolomonCodec. -/

@[simp] theorem gfRow_length (c : Byte) : (gfRow c).length = 256 := by simp [gfRow]

/-- Entry i of the multiply-by-c row (R136). -/
theorem gfRow_getD (c : Byte) {i : Nat} (h : i < 256) : (gfRow c).getD i 0 = gfMul c (BitVec.ofNat 8 i) := by
  simp [gfRow, List.getD_eq_getElem?_getD, List.getElem?_map, List.getElem?_range h]

@[simp] theorem gfGen_length (d : Nat) : (gfGen d).length = d := by
  induction d with
  | zero => rfl
  | succ d ih => simp [gfGen, ih]

@[simp] theorem rsStep_length (g rem : List Byte) (m : Byte) : (rsStep g rem m).length = min (rem.length - 1 + 1) g.length := by
  simp [rsStep]

/-- The redundancy has its length, whatever the message. -/
@[simp] theorem rs_length (m : List Byte) (e : Nat) : (rs m e).length = e := by
  suffices h : ∀ rem : List Byte, rem.length = e → (m.foldl (rsStep (gfGen e)) rem).length = e by
    exact h _ (by simp)
  induction m with
  | nil => exact fun _ h => h
  | cons b m ih =>
    refine fun rem h => ih _ ?_
    rw [rsStep_length, gfGen_length, h]
    omega

@[simp] theorem sbc_length (b p e : Nat) : (sbc b p e).length = e := rs_length _ _

/-! BLOCK_TABLE. -/

/-- The offsets of the blocks in closed form (R192). -/
theorem dataOff_eq (r : BlockRow) (k : Nat) : dataOff r k = k * r.len1 + (k - r.blocks1) := by
  induction k with
  | zero => simp [dataOff]
  | succ k ih =>
    rw [dataOff, ih, dataLen, Nat.succ_mul]
    split_ifs <;> omega

/-- The blocks fill the data capacity (R192). -/
theorem dataOff_nblocks (r : BlockRow) : dataOff r (nblocks r) = dataTotal r := by
  rw [dataOff_eq, nblocks, dataTotal, Nat.add_mul, Nat.mul_add]
  omega

/-- Block k ends inside the data capacity. -/
theorem dataOff_add_dataLen_le (r : BlockRow) {k : Nat} (h : k < nblocks r) : dataOff r k + dataLen r k ≤ dataTotal r := by
  have mono : ∀ n, k + 1 ≤ n → dataOff r (k + 1) ≤ dataOff r n := by
    intro n hn
    induction n, hn using Nat.le_induction with
    | base => exact Nat.le_refl _
    | succ n _ ih => exact ih.trans (by rw [dataOff.eq_def r (n + 1)]; exact Nat.le_add_right _ _)
  rw [← dataOff_nblocks]
  exact mono _ h

/-- A version above 40 has the row of zeros. -/
theorem versionRow_of_gt {v : Nat} (h : Config.maxVersion < v) : versionRow v = noVersionRow := by
  have h0 : v ≠ 0 := by omega
  have hl : printedTables.block.length ≤ v - 1 := by
    have : printedTables.block.length = 40 := by decide
    simp only [Config.maxVersion] at h
    omega
  rw [versionRow, if_neg h0, List.getElem?_eq_none hl]
  rfl

/-- What the table keeps to, for the forty versions (R251, R252, R255; RS_MAXLEN of R163). -/
theorem blockRow_bounds_of_le : ∀ v, v ≤ 40 → ∀ l ∈ [Level.L, .M, .Q, .H],
    dataTotal (blockRow v l) ≤ 2956 ∧ eccTotal (blockRow v l) ≤ 2430 ∧ nblocks (blockRow v l) ≤ 81 ∧
    (blockRow v l).eccLen ≤ 30 ∧ (blockRow v l).len1 ≤ 122 ∧
    totalCodewords (blockRow v l) = (versionRow v).total := by
  intro v hv
  have : v ∈ List.range 41 := List.mem_range.mpr (by omega)
  revert v
  have h : ∀ v ∈ List.range 41, ∀ l ∈ [Level.L, .M, .Q, .H],
      dataTotal (blockRow v l) ≤ 2956 ∧ eccTotal (blockRow v l) ≤ 2430 ∧ nblocks (blockRow v l) ≤ 81 ∧
      (blockRow v l).eccLen ≤ 30 ∧ (blockRow v l).len1 ≤ 122 ∧
      totalCodewords (blockRow v l) = (versionRow v).total := by decide +kernel
  exact fun v _ hv => h v hv

/-- The same for every number in place of a version. -/
theorem blockRow_bounds (v : Nat) (l : Level) :
    dataTotal (blockRow v l) ≤ 2956 ∧ eccTotal (blockRow v l) ≤ 2430 ∧ nblocks (blockRow v l) ≤ 81 ∧
    (blockRow v l).eccLen ≤ 30 ∧ (blockRow v l).len1 ≤ 122 := by
  by_cases hv : v ≤ 40
  · obtain ⟨h1, h2, h3, h4, h5, -⟩ := blockRow_bounds_of_le v hv l (by cases l <;> simp)
    exact ⟨h1, h2, h3, h4, h5⟩
  · have h : versionRow v = noVersionRow := versionRow_of_gt (by simp only [Config.maxVersion]; omega)
    cases l <;> simp [blockRow, h, noVersionRow, dataTotal, eccTotal, nblocks]

/-- A fold that takes the larger value is at least its start and every element's value. -/
theorem le_foldl_max {α : Type} (f : α → Nat) (rows : List α) (n : Nat) :
    n ≤ rows.foldl (fun m r => max m (f r)) n ∧ ∀ r ∈ rows, f r ≤ rows.foldl (fun m r => max m (f r)) n := by
  induction rows generalizing n with
  | nil => simp
  | cons r rows ih =>
    obtain ⟨h1, h2⟩ := ih (max n (f r))
    refine ⟨(le_max_left _ _).trans h1, fun x hx => ?_⟩
    rcases List.mem_cons.mp hx with rfl | hx
    · exact (le_max_right _ _).trans h1
    · exact h2 x hx

/-- Under any tables the least RS_MAXLEN is at least every block length its redundancy length is paired with (R163, R255). -/
theorem blockLenPaired_le_leastMaxLen (q : QrTables) {v : Nat} (l : Level) (h1 : 1 ≤ v) (hv : v ≤ q.block.length) (e : Nat) :
    blockLenPaired e (blockRow v l q) ≤ leastMaxLen e q := by
  have hrow : versionRow v q = q.block[v - 1] := by
    simp [versionRow, show v ≠ 0 by omega, List.getElem?_eq_getElem (show v - 1 < q.block.length by omega)]
  have hle := (le_foldl_max (fun row : VersionRow => max (max (blockLenPaired e row.rowL) (blockLenPaired e row.rowM))
    (max (blockLenPaired e row.rowQ) (blockLenPaired e row.rowH))) q.block 0).2 _
    (List.getElem_mem (show v - 1 < q.block.length by omega))
  simp only [max_le_iff] at hle
  rw [leastMaxLen]
  cases l <;> simp only [blockRow, hrow] <;> tauto

/-! The bit stream (R277, R284). -/

@[simp] theorem natBits_length (width n : Nat) : (natBits width n).length = width := by simp [natBits]

theorem numericBits_length (bytes : List Byte) : (numericBits bytes).length = segbits .N bytes.length := by
  induction bytes using numericBits.induct with
  | case1 a b c rest ih =>
    simp only [numericBits, List.length_append, natBits_length, ih, List.length_cons, segbits]
    split_ifs <;> omega
  | case2 a b => simp [numericBits, segbits]
  | case3 a => simp [numericBits, segbits]
  | case4 => simp [numericBits, segbits]

theorem alnumBits_length (bytes : List Byte) : (alnumBits bytes).length = segbits .A bytes.length := by
  induction bytes using alnumBits.induct with
  | case1 a b rest ih =>
    simp only [alnumBits, List.length_append, natBits_length, ih, List.length_cons, segbits]
    omega
  | case2 a => simp [alnumBits, segbits]
  | case3 => simp [alnumBits, segbits]

/-- The data bits of a segment take the bits R277 says. -/
@[simp] theorem dataBits_length (ty : CharClass) (bytes : List Byte) : (dataBits ty bytes).length = segbits ty bytes.length := by
  cases ty with
  | N => exact numericBits_length bytes
  | A => exact alnumBits_length bytes
  | B =>
    simp only [dataBits, segbits]
    induction bytes with
    | nil => rfl
    | cons b bytes ih => simp [ih, Nat.mul_add, Nat.add_comm]

/-- A segment takes its header and its data bits. -/
theorem segmentBits_length (t : Nat) (g : Segment) (bytes : List Byte) :
    (segmentBits t g bytes).length = hdr g.type t + segbits g.type bytes.length := by
  simp [segmentBits, hdr, Nat.add_assoc]

/-- Eight bits a byte. -/
@[simp] theorem packBytes_length (bits : List Bool) : (packBytes bits).length = bits.length / 8 := by
  induction bits using packBytes.induct with
  | case1 b7 b6 b5 b4 b3 b2 b1 b0 rest ih => simp only [packBytes, List.length_cons, ih]; omega
  | case2 bits h =>
    have hl : bits.length < 8 := by
      by_contra hc
      match bits, h, hc with
      | b7 :: b6 :: b5 :: b4 :: b3 :: b2 :: b1 :: b0 :: rest, h, _ => exact h b7 b6 b5 b4 b3 b2 b1 b0 rest rfl
      | [], _, hc => simp at hc
      | [_], _, hc => simp at hc
      | [_, _], _, hc => simp at hc
      | [_, _, _], _, hc => simp at hc
      | [_, _, _, _], _, hc => simp at hc
      | [_, _, _, _, _], _, hc => simp at hc
      | [_, _, _, _, _, _], _, hc => simp at hc
      | [_, _, _, _, _, _, _], _, hc => simp at hc
    have : packBytes bits = [] := by
      unfold packBytes
      split
      next b7 b6 b5 b4 b3 b2 b1 b0 rest => exact absurd rfl (h b7 b6 b5 b4 b3 b2 b1 b0 rest)
      next => rfl
    rw [this]
    simp only [List.length_nil]
    omega

/-! The solver and the assembler. -/

@[simp] theorem resolvedBits_length (p : Template) (st : Pass) : (resolvedBits p st).length = p.td.length := by
  simp [resolvedBits]

/-- A solution has one bit for every label of TD. -/
@[simp] theorem solveTemplate_bits_length (draw : Nat → Nat) (p : Template) : (solveTemplate draw p).bits.length = p.td.length := by
  unfold solveTemplate
  split_ifs <;> simp

@[simp] theorem ownerMaskBits_length (kind : CwKind) (k n : Nat) (s : State) (q : QrTables) :
    (ownerMaskBits kind k n s q).length = n := by
  simp [ownerMaskBits]

/-- Bit t of a vector is the t-th element of the list it was made of (R324). -/
theorem vecOf_getLsbD (bits : List Bool) {t : Nat} (h : t < Config.vecWidth) : (vecOf bits).getLsbD t = bits.getD t false := by
  induction bits generalizing t with
  | nil => simp [vecOf]
  | cons b bits ih =>
    cases t with
    | zero => cases b <;> simp [vecOf]
    | succ t =>
      have h1 : (vecOf bits).getLsbD t = bits.getD t false := ih (by omega)
      have hw : t + 1 < 256 := h
      have hb : ((if b then 1 else 0 : SolverVec).getLsbD (t + 1)) = false := by cases b <;> simp
      rw [vecOf, BitVec.getLsbD_or, BitVec.getLsbD_shiftLeft, hb]
      simpa [hw] using h1

@[simp] theorem blocksEcc_length (r : BlockRow) (data : List Byte) : (blocksEcc r data).length = eccTotal r := by
  simp [blocksEcc, eccTotal, List.length_flatMap]

@[simp] theorem matrixBits_length (v : Nat) (l : Level) (m : Nat) (data ecc : List Byte) (q : QrTables) :
    (matrixBits v l m data ecc q).length = side v * side v := by
  simp [matrixBits, List.length_flatMap]

end Sys2Proof.Machine
end

