-- ==== Sys2Proof/Laws/Memory.lean ====
section
/-! SUPPORT. The laws of BUF and GRID: a read after a write, that a write leaves every other place alone, and that every
memory operation keeps the canonical form. -/

namespace Sys2Proof.Machine

namespace Memory

/-! Read after write. -/

/-- The byte just written is the byte read. -/
@[simp] theorem read?_write_same (m : Memory) (a : Nat) (v : Byte) : (write m a v).read? a = some v := by
  induction m with
  | nil => simp [write, read?]
  | cons c m ih =>
    obtain ⟨b, w⟩ := c
    unfold write
    split_ifs with h1 h2 <;> simp_all [read?]

/-- A write leaves every other address alone. -/
theorem read?_write_other (m : Memory) {a b : Nat} (v : Byte) (h : b ≠ a) : (write m a v).read? b = m.read? b := by
  induction m with
  | nil => simp [write, read?, h]
  | cons c m ih =>
    obtain ⟨k, w⟩ := c
    unfold write
    split_ifs with h1 h2
    · simp [read?, h]
    · subst h2; simp [read?, h]
    · simp only [read?]; rw [ih]

/-- What consecutive writes leave at an address: the byte written there, or what it held. -/
theorem read?_writeBytes (vs : List Byte) (m : Memory) (a b : Nat) :
    (writeBytes m a vs).read? b = if a ≤ b ∧ b < a + vs.length then vs[b - a]? else m.read? b := by
  induction vs generalizing m a with
  | nil => rw [if_neg (by simp)]; rfl
  | cons v vs ih =>
    rw [writeBytes, ih]
    by_cases hb : b = a
    · subst hb; simp
    · rw [read?_write_other _ _ hb]
      by_cases h : a + 1 ≤ b ∧ b < a + 1 + vs.length
      · have h' : a ≤ b ∧ b < a + (v :: vs).length := by simp; omega
        have e : b - a = (b - (a + 1)) + 1 := by omega
        rw [if_pos h, if_pos h', e, List.getElem?_cons_succ]
      · have h' : ¬(a ≤ b ∧ b < a + (v :: vs).length) := by simp; omega
        rw [if_neg h, if_neg h']

/-! The canonical form. -/

/-- A weaker lower bound. -/
theorem risingFrom_mono {m : Memory} {lo lo' : Nat} (h : lo' ≤ lo) (hm : risingFrom lo m = true) :
    risingFrom lo' m = true := by
  cases m with
  | nil => rfl
  | cons c m =>
    obtain ⟨a, v⟩ := c
    simp only [risingFrom, Bool.and_eq_true, decide_eq_true_eq] at hm ⊢
    exact ⟨h.trans hm.1, hm.2⟩

/-- A write keeps the addresses rising. -/
theorem risingFrom_write {m : Memory} {lo a : Nat} {v : Byte} (ha : lo ≤ a) (hm : risingFrom lo m = true) :
    risingFrom lo (write m a v) = true := by
  induction m generalizing lo with
  | nil => simp [write, risingFrom, ha]
  | cons c m ih =>
    obtain ⟨b, w⟩ := c
    simp only [risingFrom, Bool.and_eq_true, decide_eq_true_eq] at hm
    unfold write
    split_ifs with h1 h2
    · simp only [risingFrom, Bool.and_eq_true, decide_eq_true_eq]
      exact ⟨ha, by omega, hm.2⟩
    · subst h2
      simp only [risingFrom, Bool.and_eq_true, decide_eq_true_eq]
      exact ⟨ha, hm.2⟩
    · simp only [risingFrom, Bool.and_eq_true, decide_eq_true_eq]
      exact ⟨hm.1, ih (by omega) hm.2⟩

/-- A write lists the address written and no other new one. -/
theorem all_mapped_write {m : Memory} {a : Nat} {v : Byte} (ha : mapped a = true)
    (hm : (m.all fun c => mapped c.1) = true) : ((write m a v).all fun c => mapped c.1) = true := by
  induction m with
  | nil => simpa [write] using ha
  | cons c m ih =>
    obtain ⟨b, w⟩ := c
    simp only [List.all_cons, Bool.and_eq_true] at hm
    unfold write
    split_ifs with h1 h2
    · simp only [List.all_cons, Bool.and_eq_true]; exact ⟨ha, hm.1, hm.2⟩
    · simp only [List.all_cons, Bool.and_eq_true]; exact ⟨ha, hm.2⟩
    · simp only [List.all_cons, Bool.and_eq_true]; exact ⟨hm.1, ih hm.2⟩

/-- A write to a buffer address keeps the canonical form. -/
theorem wf_write {m : Memory} {a : Nat} {v : Byte} (ha : mapped a = true) (hm : wf m = true) :
    wf (write m a v) = true := by
  simp only [wf, Bool.and_eq_true] at hm ⊢
  exact ⟨risingFrom_write (Nat.zero_le a) hm.1, all_mapped_write ha hm.2⟩

/-- Consecutive writes to buffer addresses keep the canonical form. -/
theorem wf_writeBytes {vs : List Byte} {m : Memory} {a : Nat} (ha : ∀ i, i < vs.length → mapped (a + i) = true)
    (hm : wf m = true) : wf (writeBytes m a vs) = true := by
  induction vs generalizing m a with
  | nil => exact hm
  | cons v vs ih =>
    refine ih (fun i hi => ?_) (wf_write (by simpa using ha 0 (by simp)) hm)
    have := ha (i + 1) (by simpa using hi)
    rwa [show a + 1 + i = a + (i + 1) by omega]

/-- Equal reads make canonical memories equal data. -/
theorem eq_of_read? {m n : Memory} {lo : Nat} (hm : risingFrom lo m = true) (hn : risingFrom lo n = true)
    (h : ∀ a, m.read? a = n.read? a) : m = n := by
  have low : ∀ {m : Memory} {lo a : Nat}, risingFrom lo m = true → a < lo → m.read? a = none := by
    intro m
    induction m with
    | nil => intros; rfl
    | cons c m ih =>
      intro lo a hr hl
      obtain ⟨b, w⟩ := c
      simp only [risingFrom, Bool.and_eq_true, decide_eq_true_eq] at hr
      rw [read?, if_neg (by omega)]
      exact ih hr.2 (by omega)
  induction m generalizing n lo with
  | nil =>
    cases n with
    | nil => rfl
    | cons c n => have := h c.1; simp [read?] at this
  | cons c m ih =>
    obtain ⟨a, v⟩ := c
    simp only [risingFrom, Bool.and_eq_true, decide_eq_true_eq] at hm
    cases n with
    | nil => have := h a; simp [read?] at this
    | cons d n =>
      obtain ⟨b, w⟩ := d
      simp only [risingFrom, Bool.and_eq_true, decide_eq_true_eq] at hn
      have hab : a = b := by
        rcases Nat.lt_trichotomy a b with hlt | heq | hgt
        · have h1 := h a
          simp only [read?, if_true] at h1
          rw [if_neg (by omega), low hn.2 (by omega)] at h1
          simp at h1
        · exact heq
        · have h1 := h b
          simp only [read?, if_true] at h1
          rw [if_neg (by omega), low hm.2 (by omega)] at h1
          simp at h1
      subst hab
      have hvw : v = w := by simpa [read?] using h a
      subst hvw
      congr 1
      refine ih hm.2 hn.2 fun x => ?_
      by_cases hx : x = a
      · subst hx; rw [low hm.2 (by omega), low hn.2 (by omega)]
      · simpa [read?, hx] using h x

end Memory

/-- Reset memory has the canonical form. -/
theorem reset_mem_wf : Memory.wf State.reset.mem = true := by decide

/-! Buffers. -/

/-- An address inside a buffer is mapped. -/
theorem mapped_of_buffer (b : Buffer) {i : Nat} (h : i < b.size) : mapped (b.base + i) = true := by
  refine List.any_eq_true.mpr ⟨b, by cases b <;> decide, ?_⟩
  simp only [Bool.and_eq_true, decide_eq_true_eq]
  omega

/-- What a buffer write leaves at an address: the byte written there, or what was read before. -/
theorem readByte_writeBuf (b : Buffer) (o : Nat) (vs : List Byte) (s : State) (a : Nat) :
    readByte (writeBuf b o vs s) a =
      if b.base + o ≤ a ∧ a < b.base + o + vs.length then vs.getD (a - (b.base + o)) 0 else readByte s a := by
  simp only [readByte, writeBuf_mem, writeBuf_resets, Memory.read?_writeBytes]
  split_ifs with h
  · have hl : a - (b.base + o) < vs.length := by omega
    simp [List.getD_eq_getElem?_getD, List.getElem?_eq_getElem hl]
  · rfl

/-- A buffer write is read back. -/
theorem readByte_writeBuf_of_lt {b : Buffer} {o i : Nat} {vs : List Byte} {s : State} (h : i < vs.length) :
    readByte (writeBuf b o vs s) (b.base + o + i) = vs.getD i 0 := by
  rw [readByte_writeBuf, if_pos (by omega)]
  congr 1
  omega

/-- A buffer write leaves every address outside the bytes written alone. -/
theorem readByte_writeBuf_outside {b : Buffer} {o a : Nat} {vs : List Byte} {s : State}
    (h : ¬(b.base + o ≤ a ∧ a < b.base + o + vs.length)) : readByte (writeBuf b o vs s) a = readByte s a := by
  rw [readByte_writeBuf, if_neg h]

/-- A write inside a buffer keeps the canonical form. -/
theorem writeBuf_wf {b : Buffer} {o : Nat} {vs : List Byte} {s : State} (h : o + vs.length ≤ b.size)
    (hs : s.mem.wf = true) : (writeBuf b o vs s).mem.wf = true := by
  rw [writeBuf_mem]
  refine Memory.wf_writeBytes (fun i hi => ?_) hs
  rw [Nat.add_assoc]
  exact mapped_of_buffer b (by omega)

/-- A host write keeps the canonical form (R65). -/
theorem hostMemWrite_wf {a : BitVec 16} {v : Byte} {s : State} (hs : s.mem.wf = true) :
    (hostMemWrite a v s).mem.wf = true := by
  unfold hostMemWrite
  split_ifs with h
  · exact Memory.wf_write h hs
  · exact hs

@[simp] theorem readBuf_length (b : Buffer) (n : Nat) (s : State) : (readBuf b n s).length = n := by
  simp [readBuf]

/-- Byte `i` of a buffer read. -/
theorem readBuf_getD (b : Buffer) {n i : Nat} (s : State) (h : i < n) : (readBuf b n s).getD i 0 = readByte s (b.base + i) := by
  simp [readBuf, List.getD_eq_getElem?_getD, List.getElem?_map, List.getElem?_range h]

/-! GRID. -/

/-- What a GRID write leaves at a bit index. -/
theorem gridBit_writeGrid (bits : List Bool) (s : State) (i : Nat) :
    gridBit (writeGrid bits s) i = if i < bits.length then bits.getD i false else gridBit s i := by
  simp only [gridBit, writeGrid_grid, writeGrid_resets]
  split_ifs with h
  · simp [List.getElem?_append_left h, List.getD_eq_getElem?_getD, List.getElem?_eq_getElem h]
  · rw [List.getElem?_append_right (by omega), List.getElem?_drop]
    congr 2
    omega

end Sys2Proof.Machine
end

