-- ==== Sys2Proof/Laws/PerInstr.lean ====
section
/-! SUPPORT. Statements made of every instruction, one lemma per constructor. -/

namespace Sys2Proof.Laws

/-- The bits of a packed word under a packed mask, field by field (R91). -/
theorem packFields_and (op a b c op' a' b' c' : Byte) :
    packFields op a b c &&& packFields op' a' b' c' = packFields (op &&& op') (a &&& a') (b &&& b') (c &&& c') := by
  refine BitVec.eq_of_getLsbD_eq fun i _ => ?_
  simp only [packFields, BitVec.getLsbD_and, BitVec.getLsbD_append]
  split_ifs <;> rfl

/-- A field the mask leaves out. -/
theorem byte_and_zero (a : Byte) : a &&& 0x00 = 0x00 := BitVec.and_zero

namespace EncodesOwnRow

/-- The word of the instruction is a word of the row of R94 that bears its mnemonic. -/
def Statement (i : Instr) : Prop := ∃ r ∈ opcodeTable, r.mnemonic = i.mnemonic ∧ encode i &&& r.mask = r.pattern

theorem nop : Statement (.nop) := by
  refine ⟨⟨"NOP", 0x00000000, 0xFFFFFFFF⟩, by decide, rfl, ?_⟩
  decide

theorem clrf : Statement (.clrf) := by
  refine ⟨⟨"CLRF", 0x00000001, 0xFFFFFFFF⟩, by decide, rfl, ?_⟩
  decide

theorem gfadd (a b : Byte) : Statement (.gfadd a b) := by
  refine ⟨⟨"GFADD", 0x00000010, 0xFF0000FF⟩, by decide, rfl, ?_⟩
  rw [show (0xFF0000FF : Word) = packFields 0xFF 0x00 0x00 0xFF by decide, encode, packFields_and]
  simp only [byte_and_zero]
  decide

theorem gfmul (a b : Byte) : Statement (.gfmul a b) := by
  refine ⟨⟨"GFMUL", 0x00000011, 0xFF0000FF⟩, by decide, rfl, ?_⟩
  rw [show (0xFF0000FF : Word) = packFields 0xFF 0x00 0x00 0xFF by decide, encode, packFields_and]
  simp only [byte_and_zero]
  decide

theorem gfexp (i : Nat) : Statement (.gfexp i) := by
  refine ⟨⟨"GFEXP", 0x00000012, 0xFFFF00FF⟩, by decide, rfl, ?_⟩
  rw [show (0xFFFF00FF : Word) = packFields 0xFF 0x00 0xFF 0xFF by decide, encode, packFields_and]
  simp only [byte_and_zero]
  decide

theorem gflog (a : Byte) : Statement (.gflog a) := by
  refine ⟨⟨"GFLOG", 0x00000013, 0xFFFF00FF⟩, by decide, rfl, ?_⟩
  rw [show (0xFFFF00FF : Word) = packFields 0xFF 0x00 0xFF 0xFF by decide, encode, packFields_and]
  simp only [byte_and_zero]
  decide

theorem gfrow (c : Byte) : Statement (.gfrow c) := by
  refine ⟨⟨"GFROW", 0x00000014, 0xFFFF00FF⟩, by decide, rfl, ?_⟩
  rw [show (0xFFFF00FF : Word) = packFields 0xFF 0x00 0xFF 0xFF by decide, encode, packFields_and]
  simp only [byte_and_zero]
  decide

theorem gfgen (d : Nat) : Statement (.gfgen d) := by
  refine ⟨⟨"GFGEN", 0x00000015, 0xFFFF00FF⟩, by decide, rfl, ?_⟩
  rw [show (0xFFFF00FF : Word) = packFields 0xFF 0x00 0xFF 0xFF by decide, encode, packFields_and]
  simp only [byte_and_zero]
  decide

theorem rsenc (len eccLen : Nat) : Statement (.rsenc len eccLen) := by
  refine ⟨⟨"RSENC", 0x00000020, 0xFF0000FF⟩, by decide, rfl, ?_⟩
  rw [show (0xFF0000FF : Word) = packFields 0xFF 0x00 0x00 0xFF by decide, encode, packFields_and]
  simp only [byte_and_zero]
  decide

theorem rsbit (bitPosition byteExponent eccLen : Nat) : Statement (.rsbit bitPosition byteExponent eccLen) := by
  refine ⟨⟨"RSBIT", 0x00000021, 0x000000FF⟩, by decide, rfl, ?_⟩
  rw [show (0x000000FF : Word) = packFields 0xFF 0x00 0x00 0x00 by decide, encode, packFields_and]
  simp only [byte_and_zero]
  decide

theorem layout (version ecLevel : Nat) : Statement (.layout version ecLevel) := by
  refine ⟨⟨"LAYOUT", 0x00000030, 0xFF0000FF⟩, by decide, rfl, ?_⟩
  rw [show (0xFF0000FF : Word) = packFields 0xFF 0x00 0x00 0xFF by decide, encode, packFields_and]
  simp only [byte_and_zero]
  decide

theorem setmask (maskVersion : Nat) : Statement (.setmask maskVersion) := by
  refine ⟨⟨"SETMASK", 0x00000031, 0xFFFF00FF⟩, by decide, rfl, ?_⟩
  rw [show (0xFFFF00FF : Word) = packFields 0xFF 0x00 0xFF 0xFF by decide, encode, packFields_and]
  simp only [byte_and_zero]
  decide

theorem cell (x y : Nat) : Statement (.cell x y) := by
  refine ⟨⟨"CELL", 0x00000032, 0xFF0000FF⟩, by decide, rfl, ?_⟩
  rw [show (0xFF0000FF : Word) = packFields 0xFF 0x00 0x00 0xFF by decide, encode, packFields_and]
  simp only [byte_and_zero]
  decide

theorem maskbit (x y : Nat) : Statement (.maskbit x y) := by
  refine ⟨⟨"MASKBIT", 0x00000033, 0xFF0000FF⟩, by decide, rfl, ?_⟩
  rw [show (0xFF0000FF : Word) = packFields 0xFF 0x00 0x00 0xFF by decide, encode, packFields_and]
  simp only [byte_and_zero]
  decide

theorem fmtinfo : Statement (.fmtinfo) := by
  refine ⟨⟨"FMTINFO", 0x00000034, 0xFFFFFFFF⟩, by decide, rfl, ?_⟩
  decide

theorem verinfo : Statement (.verinfo) := by
  refine ⟨⟨"VERINFO", 0x00000035, 0xFFFFFFFF⟩, by decide, rfl, ?_⟩
  decide

theorem blkinfo (k : Nat) : Statement (.blkinfo k) := by
  refine ⟨⟨"BLKINFO", 0x00000036, 0xFFFF00FF⟩, by decide, rfl, ?_⟩
  rw [show (0xFFFF00FF : Word) = packFields 0xFF 0x00 0xFF 0xFF by decide, encode, packFields_and]
  simp only [byte_and_zero]
  decide

theorem capinfo : Statement (.capinfo) := by
  refine ⟨⟨"CAPINFO", 0x00000037, 0xFFFFFFFF⟩, by decide, rfl, ?_⟩
  decide

theorem enc (ecLevel mode : Nat) : Statement (.enc ecLevel mode) := by
  refine ⟨⟨"ENC", 0x00000040, 0xFF0000FF⟩, by decide, rfl, ?_⟩
  rw [show (0xFF0000FF : Word) = packFields 0xFF 0x00 0x00 0xFF by decide, encode, packFields_and]
  simp only [byte_and_zero]
  decide

theorem encv (version ecLevel mode : Nat) : Statement (.encv version ecLevel mode) := by
  refine ⟨⟨"ENCV", 0x00000041, 0x000000FF⟩, by decide, rfl, ?_⟩
  rw [show (0x000000FF : Word) = packFields 0xFF 0x00 0x00 0x00 by decide, encode, packFields_and]
  simp only [byte_and_zero]
  decide

theorem solveblk (k : Nat) (raw : Bool) : Statement (.solveblk k raw) := by
  refine ⟨⟨"SOLVEBLK", 0x00000050, 0xFEFF00FF⟩, by decide, rfl, ?_⟩
  rw [show (0xFEFF00FF : Word) = packFields 0xFF 0x00 0xFF 0xFE by decide, encode, packFields_and]
  rw [byte_and_zero]
  cases raw <;> decide

theorem build : Statement (.build) := by
  refine ⟨⟨"BUILD", 0x00000060, 0xFFFFFFFF⟩, by decide, rfl, ?_⟩
  decide

theorem assemble : Statement (.assemble) := by
  refine ⟨⟨"ASSEMBLE", 0x00000061, 0xFFFFFFFF⟩, by decide, rfl, ?_⟩
  decide

theorem get (x y : Nat) : Statement (.get x y) := by
  refine ⟨⟨"GET", 0x00000062, 0xFF0000FF⟩, by decide, rfl, ?_⟩
  rw [show (0xFF0000FF : Word) = packFields 0xFF 0x00 0x00 0xFF by decide, encode, packFields_and]
  simp only [byte_and_zero]
  decide

theorem size : Statement (.size) := by
  refine ⟨⟨"SIZE", 0x00000063, 0xFFFFFFFF⟩, by decide, rfl, ?_⟩
  decide

end EncodesOwnRow

end Sys2Proof.Laws
end

