-- ==== Sys2Proof/Laws/Results.lean ====
section
/-! SUPPORT. What the three shared results, of ENC and ENCV, of SOLVEBLK, of BUILD and ASSEMBLE, do to every field of the
state and to every byte and bit of the stores. -/

namespace Sys2Proof.Machine

variable (s : State)

@[simp] theorem placeStream_status (pad : PadFill) (v : Nat) (l : Level) (payload : List Byte) (total : Nat) (segs : List Segment) (q : QrTables) : (placeStream pad v l payload total segs s q).status = s.status := rfl
@[simp] theorem placeStream_r0 (pad : PadFill) (v : Nat) (l : Level) (payload : List Byte) (total : Nat) (segs : List Segment) (q : QrTables) : (placeStream pad v l payload total segs s q).r0 = word v := rfl
@[simp] theorem placeStream_r1 (pad : PadFill) (v : Nat) (l : Level) (payload : List Byte) (total : Nat) (segs : List Segment) (q : QrTables) : (placeStream pad v l payload total segs s q).r1 = word total := rfl
@[simp] theorem placeStream_r2 (pad : PadFill) (v : Nat) (l : Level) (payload : List Byte) (total : Nat) (segs : List Segment) (q : QrTables) : (placeStream pad v l payload total segs s q).r2 = word segs.length := rfl
@[simp] theorem placeStream_len0 (pad : PadFill) (v : Nat) (l : Level) (payload : List Byte) (total : Nat) (segs : List Segment) (q : QrTables) : (placeStream pad v l payload total segs s q).len0 = s.len0 := rfl
@[simp] theorem placeStream_len1 (pad : PadFill) (v : Nat) (l : Level) (payload : List Byte) (total : Nat) (segs : List Segment) (q : QrTables) : (placeStream pad v l payload total segs s q).len1 = s.len1 := rfl
@[simp] theorem placeStream_blen (pad : PadFill) (v : Nat) (l : Level) (payload : List Byte) (total : Nat) (segs : List Segment) (q : QrTables) : (placeStream pad v l payload total segs s q).blen = BitVec.ofNat 16 (capBits v l q) := rfl
@[simp] theorem placeStream_cfg (pad : PadFill) (v : Nat) (l : Level) (payload : List Byte) (total : Nat) (segs : List Segment) (q : QrTables) : (placeStream pad v l payload total segs s q).cfg = s.cfg := rfl
@[simp] theorem placeStream_mem (pad : PadFill) (v : Nat) (l : Level) (payload : List Byte) (total : Nat) (segs : List Segment) (q : QrTables) : (placeStream pad v l payload total segs s q).mem = (writeBuf .bits 0 (packBytes (finalStream pad v l payload total segs q)) s).mem := rfl
@[simp] theorem placeStream_grid (pad : PadFill) (v : Nat) (l : Level) (payload : List Byte) (total : Nat) (segs : List Segment) (q : QrTables) : (placeStream pad v l payload total segs s q).grid = s.grid := rfl
@[simp] theorem placeStream_draws (pad : PadFill) (v : Nat) (l : Level) (payload : List Byte) (total : Nat) (segs : List Segment) (q : QrTables) : (placeStream pad v l payload total segs s q).draws = s.draws := rfl
@[simp] theorem placeStream_resets (pad : PadFill) (v : Nat) (l : Level) (payload : List Byte) (total : Nat) (segs : List Segment) (q : QrTables) : (placeStream pad v l payload total segs s q).resets = s.resets := rfl
@[simp] theorem placeStream_pending (pad : PadFill) (v : Nat) (l : Level) (payload : List Byte) (total : Nat) (segs : List Segment) (q : QrTables) : (placeStream pad v l payload total segs s q).pending = s.pending := rfl
@[simp] theorem placeStream_replies (pad : PadFill) (v : Nat) (l : Level) (payload : List Byte) (total : Nat) (segs : List Segment) (q : QrTables) : (placeStream pad v l payload total segs s q).replies = s.replies := rfl

@[simp] theorem placeSolution_status (p : Template) (sol : Solution) : (placeSolution p sol s).status = s.status := rfl
@[simp] theorem placeSolution_r0 (p : Template) (sol : Solution) : (placeSolution p sol s).r0 = word sol.rank := rfl
@[simp] theorem placeSolution_r1 (p : Template) (sol : Solution) : (placeSolution p sol s).r1 = word (p.free.length - sol.rank) := rfl
@[simp] theorem placeSolution_r2 (p : Template) (sol : Solution) : (placeSolution p sol s).r2 = word p.targets.length := rfl
@[simp] theorem placeSolution_len0 (p : Template) (sol : Solution) : (placeSolution p sol s).len0 = s.len0 := rfl
@[simp] theorem placeSolution_len1 (p : Template) (sol : Solution) : (placeSolution p sol s).len1 = s.len1 := rfl
@[simp] theorem placeSolution_blen (p : Template) (sol : Solution) : (placeSolution p sol s).blen = s.blen := rfl
@[simp] theorem placeSolution_cfg (p : Template) (sol : Solution) : (placeSolution p sol s).cfg = s.cfg := rfl
@[simp] theorem placeSolution_mem (p : Template) (sol : Solution) : (placeSolution p sol s).mem = (writeBuf .ecc 0 (rs (packBytes sol.bits) p.eccCw) (writeBuf .out 0 ((List.zipWith (fun d m => d ^^ m) sol.bits p.md).map bitByte) s)).mem := rfl
@[simp] theorem placeSolution_grid (p : Template) (sol : Solution) : (placeSolution p sol s).grid = s.grid := rfl
@[simp] theorem placeSolution_draws (p : Template) (sol : Solution) : (placeSolution p sol s).draws = s.draws + drawsTaken p := rfl
@[simp] theorem placeSolution_resets (p : Template) (sol : Solution) : (placeSolution p sol s).resets = s.resets := rfl
@[simp] theorem placeSolution_pending (p : Template) (sol : Solution) : (placeSolution p sol s).pending = s.pending := rfl
@[simp] theorem placeSolution_replies (p : Template) (sol : Solution) : (placeSolution p sol s).replies = s.replies := rfl

@[simp] theorem assembleSymbol_status (data : List Byte) (q : QrTables) : (assembleSymbol data s q).status = s.status := rfl
@[simp] theorem assembleSymbol_r0 (data : List Byte) (q : QrTables) : (assembleSymbol data s q).r0 = word (curSide s) := rfl
@[simp] theorem assembleSymbol_r1 (data : List Byte) (q : QrTables) : (assembleSymbol data s q).r1 = s.r1 := rfl
@[simp] theorem assembleSymbol_r2 (data : List Byte) (q : QrTables) : (assembleSymbol data s q).r2 = s.r2 := rfl
@[simp] theorem assembleSymbol_len0 (data : List Byte) (q : QrTables) : (assembleSymbol data s q).len0 = s.len0 := rfl
@[simp] theorem assembleSymbol_len1 (data : List Byte) (q : QrTables) : (assembleSymbol data s q).len1 = s.len1 := rfl
@[simp] theorem assembleSymbol_blen (data : List Byte) (q : QrTables) : (assembleSymbol data s q).blen = s.blen := rfl
@[simp] theorem assembleSymbol_cfg (data : List Byte) (q : QrTables) : (assembleSymbol data s q).cfg = { s.cfg with gridv := true } := rfl
@[simp] theorem assembleSymbol_mem (data : List Byte) (q : QrTables) : (assembleSymbol data s q).mem = (writeBuf .eccw 0 (blocksEcc (curRow s q) data) s).mem := rfl
@[simp] theorem assembleSymbol_grid (data : List Byte) (q : QrTables) : (assembleSymbol data s q).grid = (writeGrid (matrixBits (curVersion s) s.cfg.ecl (curMask s) data (blocksEcc (curRow s q) data) q) s).grid := rfl
@[simp] theorem assembleSymbol_draws (data : List Byte) (q : QrTables) : (assembleSymbol data s q).draws = s.draws := rfl
@[simp] theorem assembleSymbol_resets (data : List Byte) (q : QrTables) : (assembleSymbol data s q).resets = s.resets := rfl
@[simp] theorem assembleSymbol_pending (data : List Byte) (q : QrTables) : (assembleSymbol data s q).pending = s.pending := rfl
@[simp] theorem assembleSymbol_replies (data : List Byte) (q : QrTables) : (assembleSymbol data s q).replies = s.replies := rfl

/-- Every byte after ENC or ENCV: a byte of the packed stream in BITS, or what it was (R288). -/
theorem readByte_placeStream (pad : PadFill) (v : Nat) (l : Level) (payload : List Byte) (total : Nat) (segs : List Segment) (q : QrTables) (a : Nat) :
    readByte (placeStream pad v l payload total segs s q) a =
      if 0x2000 ≤ a ∧ a < 0x2000 + (finalStream pad v l payload total segs q).length / 8 then
        (packBytes (finalStream pad v l payload total segs q)).getD (a - 0x2000) 0
      else readByte s a := by
  rw [readByte_congr (t := placeStream pad v l payload total segs s q)
    (s := writeBuf .bits 0 (packBytes (finalStream pad v l payload total segs q)) s) rfl rfl, readByte_writeBuf]
  simp [Buffer.base]

/-- Every byte after SOLVEBLK but for DATA: the redundancy in ECC, the resolved bits in OUT, or what it was (R340). -/
theorem readByte_placeSolution (p : Template) (sol : Solution) (a : Nat) :
    readByte (placeSolution p sol s) a =
      if 0x5100 ≤ a ∧ a < 0x5100 + p.eccCw then (rs (packBytes sol.bits) p.eccCw).getD (a - 0x5100) 0
      else if 0x5C00 ≤ a ∧ a < 0x5C00 + min sol.bits.length p.md.length then
        ((List.zipWith (fun d m => d ^^ m) sol.bits p.md).map bitByte).getD (a - 0x5C00) 0
      else readByte s a := by
  rw [readByte_congr (t := placeSolution p sol s)
    (s := writeBuf .ecc 0 (rs (packBytes sol.bits) p.eccCw)
      (writeBuf .out 0 ((List.zipWith (fun d m => d ^^ m) sol.bits p.md).map bitByte) s)) rfl rfl,
    readByte_writeBuf, readByte_writeBuf]
  simp [Buffer.base]

/-- Every byte after BUILD or ASSEMBLE but for DATA: the redundancy of the blocks in ECCW, or what it was (R375). -/
theorem readByte_assembleSymbol (data : List Byte) (q : QrTables) (a : Nat) :
    readByte (assembleSymbol data s q) a =
      if 0x4000 ≤ a ∧ a < 0x4000 + eccTotal (curRow s q) then (blocksEcc (curRow s q) data).getD (a - 0x4000) 0
      else readByte s a := by
  rw [readByte_congr (t := assembleSymbol data s q) (s := writeBuf .eccw 0 (blocksEcc (curRow s q) data) s) rfl rfl,
    readByte_writeBuf]
  simp [Buffer.base]

/-- Every bit of GRID after BUILD or ASSEMBLE: a module of the matrix, or what it was (R42). -/
theorem gridBit_assembleSymbol (data : List Byte) (q : QrTables) (i : Nat) :
    gridBit (assembleSymbol data s q) i =
      if i < curSide s * curSide s then
        (matrixBits (curVersion s) s.cfg.ecl (curMask s) data (blocksEcc (curRow s q) data) q).getD i false
      else gridBit s i := by
  rw [gridBit_congr (t := assembleSymbol data s q)
    (s := writeGrid (matrixBits (curVersion s) s.cfg.ecl (curMask s) data (blocksEcc (curRow s q) data) q) s) rfl rfl,
    gridBit_writeGrid]
  simp [curSide]

end Sys2Proof.Machine
end

