-- ==== Sys2Proof/Tests/Slice0.lean ====
section
/-! SUPPORT. The model's own tests. Every expected value is one the spec prints (spec/95_test_vectors.md, named by its V
number, or an example of the command's rule). Last, one witness for the hypotheses of every statement. -/

namespace Sys2Proof.Tests

open Sys2Proof.Machine Sys2Proof.Claims

/-! The tests are checked one after the other, which keeps the memory of the check low: each that is checked beside others
takes a thread with a stack of its own. -/

set_option Elab.async false

/-! Helpers. -/

/-- The state after a word is issued. -/
def ran (w : Word) (s : State) : State :=
  match perform (.regWrite 0 w) s with
  | .next t => t
  | .fault _ => s
  | .refused _ => s

/-- Bytes put in a buffer by the host. -/
def poked (a : Nat) (bytes : List Nat) (s : State) : State :=
  { s with mem := s.mem.writeBytes a (bytes.map (BitVec.ofNat 8)) }

/-- A payload and its length. -/
def payloadState (bytes : List Nat) : State :=
  { poked 0 bytes State.reset with len0 := BitVec.ofNat 16 bytes.length }

/-- A layout and the mask version 0 are selected. -/
def layoutState (v : Nat) (l : Level) : State := selectMask 0 (selectLayout v l State.reset)

/-- The codes of HELLO. -/
def hello : List Nat := [0x48, 0x45, 0x4C, 0x4C, 0x4F]

/-- The bytes BITS and DATA hold for HELLO in version 1-L (V50). -/
def helloStream : List Nat := [0x20, 0x2B, 0x0B, 0x78, 0xCC] ++ List.replicate 14 0

/-- The template of the raw examples (R341, V70). -/
def rawState (td : List Nat) : State :=
  { poked 0x5400 td (poked 0x5800 ([3, 2, 3] ++ List.replicate 53 0) State.reset) with len0 := 8, len1 := 56 }

/-- Bytes of a buffer as numbers. -/
def bytesFrom (a n : Nat) (s : State) : List Nat := (bytesAt s a n).map BitVec.toNat

/-- The recommended RS_MAXLEN: nothing beyond the least value (R163). -/
def recommended : Nat → Nat := fun _ => 0

/-- The state a solve leaves under a given draw. -/
def solvedWith (draw : Nat → Nat) (s : State) : State :=
  match solveRaw recommended draw 0 s with
  | .next t => t
  | .fault _ => s
  | .refused _ => s

/-! Well-formedness: one ill-formed term for each check. -/

theorem test_wf_refuses_wide_operands :
    (Instr.gfexp 256).wellFormed = false ∧ (Instr.gfgen 256).wellFormed = false ∧
    (Instr.rsenc 256 0).wellFormed = false ∧ (Instr.rsenc 0 256).wellFormed = false ∧
    (Instr.rsbit 256 0 0).wellFormed = false ∧ (Instr.rsbit 0 256 0).wellFormed = false ∧
    (Instr.rsbit 0 0 256).wellFormed = false ∧ (Instr.layout 256 0).wellFormed = false ∧
    (Instr.layout 0 256).wellFormed = false ∧ (Instr.setmask 256).wellFormed = false ∧
    (Instr.cell 256 0).wellFormed = false ∧ (Instr.cell 0 256).wellFormed = false ∧
    (Instr.maskbit 256 0).wellFormed = false ∧ (Instr.maskbit 0 256).wellFormed = false ∧
    (Instr.blkinfo 256).wellFormed = false := by decide

theorem test_wf_refuses_wide_operands_of_the_later_families :
    (Instr.enc 256 0).wellFormed = false ∧ (Instr.enc 0 256).wellFormed = false ∧
    (Instr.encv 256 0 0).wellFormed = false ∧ (Instr.encv 0 256 0).wellFormed = false ∧
    (Instr.encv 0 0 256).wellFormed = false ∧ (Instr.solveblk 256 false).wellFormed = false ∧
    (Instr.get 256 0).wellFormed = false ∧ (Instr.get 0 256).wellFormed = false := by decide

theorem test_wf_accepts_the_last_value : (Instr.encv 255 255 255).wellFormed = true := by decide

/-! Decoding: a word of every constructor, its bits those of R91 and R94. -/

theorem test_decode_nop : decode 0x00000000 = .ok .nop := by decide
theorem test_decode_clrf : decode 0x00000001 = .ok .clrf := by decide
theorem test_decode_gfadd : decode 0x00CA5310 = .ok (.gfadd 0x53 0xCA) := by decide
theorem test_decode_gfmul : decode 0x00CA5311 = .ok (.gfmul 0x53 0xCA) := by decide
theorem test_decode_gfexp : decode 0x00000812 = .ok (.gfexp 8) := by decide
theorem test_decode_gflog : decode 0x00008F13 = .ok (.gflog 0x8F) := by decide
theorem test_decode_gfrow : decode 0x00000214 = .ok (.gfrow 2) := by decide
theorem test_decode_gfgen : decode 0x00000215 = .ok (.gfgen 2) := by decide
theorem test_decode_rsenc : decode 0x000A1020 = .ok (.rsenc 16 10) := by decide
theorem test_decode_rsbit : decode 0x07120721 = .ok (.rsbit 7 18 7) := by decide
theorem test_decode_layout : decode 0x00002930 = .ok (.layout 41 0) := by decide
theorem test_decode_setmask : decode 0x00000531 = .ok (.setmask 5) := by decide
theorem test_decode_cell : decode 0b00000000000101000001001100110010#32 = .ok (.cell 19 20) := by decide
theorem test_decode_maskbit : decode 0b00000000000101000001001100110011#32 = .ok (.maskbit 19 20) := by decide
theorem test_decode_fmtinfo : decode 0x00000034 = .ok .fmtinfo := by decide
theorem test_decode_verinfo : decode 0x00000035 = .ok .verinfo := by decide
theorem test_decode_blkinfo : decode 0b00000000000000000000001000110110#32 = .ok (.blkinfo 2) := by decide
theorem test_decode_capinfo : decode 0x00000037 = .ok .capinfo := by decide
theorem test_decode_enc : decode 0x00020040 = .ok (.enc 0 2) := by decide
theorem test_decode_encv : decode 0x03030141 = .ok (.encv 1 3 3) := by decide
theorem test_decode_solveblk : decode 0x00000050 = .ok (.solveblk 0 false) := by decide
theorem test_decode_solveblk_raw : decode 0x01000150 = .ok (.solveblk 1 true) := by decide
theorem test_decode_build : decode 0x00000060 = .ok .build := by decide
theorem test_decode_assemble : decode 0x00000061 = .ok .assemble := by decide
theorem test_decode_get : decode 0x00141362 = .ok (.get 19 20) := by decide
theorem test_decode_size : decode 0x00000063 = .ok .size := by decide

/-- Illegal words: a NOP with a bit in a, an unlisted opcode, a flag bit of SOLVEBLK above bit 0 (R95, P4). -/
theorem test_decode_illegal :
    decode 0x00010000 = .error (.nonzeroField 0x00) ∧ decode 0x000000FF = .error (.unlistedOpcode 0xFF) ∧
    decode 0x02000050 = .error (.nonzeroField 0x50) := by decide

/-! The host's word and a step of it. -/

theorem test_decodeTableWord : decodeTableWord 32 0x07120721 = some (.rsbit 7 18 7) := by decide
theorem test_step_runs_the_word :
    (match step (State.reset.withFetchWord 32 0x00CA5310) with | .next t => t.r0 | _ => 0) = 0x99 := by decide

/-! Control and faults (R120 to R122, R404, P4). -/

theorem test_layout_41_faults : (ran 0x00002930 State.reset).status.word = 0x00293002 := by decide
theorem test_clrf_clears : (ran 0x00000001 (ran 0x00002930 State.reset)).status.word = 0 := by decide
theorem test_command_dropped_while_faulted : (ran 0x00000130 (ran 0x00000062 State.reset)).cfg = Cfg.reset := by decide
theorem test_illegal_word_faults : (ran 0x000000FF State.reset).status.word = 0x00FFFF01 := by decide
theorem test_nop_keeps_r0 : (ran 0x00000000 (setR0 5 State.reset)).r0 = 5 := by decide

/-! GaloisField256 (R140 to R145). -/

theorem test_gfadd : (ran 0x00CA5310 State.reset).r0 = 0x99 := by decide
theorem test_gfmul : (ran 0x00CA5311 State.reset).r0 = 0x8F := by decide
theorem test_gfmul_reduces : (ran 0x00800211 State.reset).r0 = 0x1D := by decide
theorem test_gfexp : (ran 0x00000812 State.reset).r0 = 29 := by decide
theorem test_gfexp_255 : (ran 0x0000FF12 State.reset).r0 = 1 := by decide
theorem test_gflog : (ran 0x00008F13 State.reset).r0 = 24 := by decide
theorem test_gflog_zero : (ran 0x00000013 State.reset).r0 = 0xFFFFFFFF := by decide
theorem test_gfrow : bytesFrom 0x5200 8 (ran 0x00000314 State.reset) = [0, 3, 6, 5, 12, 15, 10, 9] := by decide +kernel
theorem test_gfgen : bytesFrom 0x5200 7 (ran 0x00000715 State.reset) = [127, 122, 154, 164, 11, 68, 117] := by decide +kernel
theorem test_gfgen_31_faults : (ran 0x00001F15 State.reset).status.word = 0x001F150B := by decide

/-! ReedSolomonCodec (R170, R171, P2). -/

theorem test_rsenc :
    bytesFrom 0x5100 10 (ran 0x000A1020
      (poked 0x5000 [32, 91, 11, 120, 209, 114, 220, 77, 67, 64, 236, 17, 236, 17, 236, 17] State.reset))
      = [196, 35, 39, 119, 235, 215, 231, 226, 93, 23] := by decide +kernel

/-- RSENC 20, 7 under the recommended RS_MAXLEN (P2), and under the other reading, `255 - e` (R163). -/
theorem test_rsenc_unsupported :
    (match rsencWithin recommended 20 7 State.reset with | .next t => t.status.word | _ => 0) = 0x0714200A ∧
    (match rsencWithin (255 - ·) 20 7 State.reset with | .next t => t.r0 | _ => 0) = 7 := by decide +kernel
theorem test_rsbit : bytesFrom 0x5100 7 (ran 0x07120721 State.reset) = [45, 235, 68, 205, 171, 74, 46] := by decide +kernel
theorem test_rsbit_checks_the_bit_first : (ran 0x00000821 State.reset).status.word = 0x0008210B := by decide

/-! SymbolLayout (R220 to R227). -/

theorem test_layout : (ran 0x00000130 State.reset).cfg.word = 0x00010001 := by decide
theorem test_setmask : (ran 0x00000531 (ran 0x00000130 State.reset)).cfg.word = 0x00035001 := by decide
theorem test_cell_dark_module : (ran 0x000D0832 (layoutState 1 .L)).r0 = 4 := by decide +kernel
theorem test_cell_last_bit :
    (ran 0x000C0032 (layoutState 1 .L)).r0 = 8 ∧ (ran 0x000C0032 (layoutState 1 .L)).r1 = 25 ∧
    (ran 0x000C0032 (layoutState 1 .L)).r2 = 0x060000 := by decide +kernel
theorem test_maskbit : (ran 0x00141433 (layoutState 1 .L)).r0 = 1 := by decide +kernel
theorem test_maskbit_finder : (ran 0x00000033 (layoutState 1 .L)).r0 = 0 := by decide +kernel
theorem test_fmtinfo : (ran 0x00000034 (ran 0x00000531 (ran 0x00010130 State.reset))).r0 = 0x40CE := by decide
theorem test_verinfo : (ran 0x00000035 (layoutState 7 .Q)).r0 = 0x07C94 := by decide
theorem test_verinfo_version_6 : (ran 0x00000035 (layoutState 6 .L)).r0 = 0 := by decide
theorem test_blkinfo :
    (ran 0x00000536 (layoutState 7 .Q)).r0 = 15 ∧ (ran 0x00000536 (layoutState 7 .Q)).r1 = 18 ∧
    (ran 0x00000536 (layoutState 7 .Q)).r2 = 73 := by decide
theorem test_capinfo :
    (ran 0x00000037 (layoutState 40 .H)).r0 = 81 ∧ (ran 0x00000037 (layoutState 40 .H)).r1 = 1276 ∧
    (ran 0x00000037 (layoutState 40 .H)).r2 = 3706 := by decide

/-! DataEncoder (R288, R290, R291). -/

theorem test_enc_hello : bytesFrom 0x2000 19 (ran 0x00000040 (payloadState hello)) = helloStream := by decide +kernel
theorem test_enc_hello_results :
    (ran 0x00000040 (payloadState hello)).r0 = 1 ∧ (ran 0x00000040 (payloadState hello)).r1 = 41 ∧
    (ran 0x00000040 (payloadState hello)).blen = 152 := by decide +kernel
theorem test_encv_hello_version_10 :
    (ran 0x00000A41 (payloadState hello)).r1 = 43 ∧ (ran 0x00000A41 (payloadState hello)).blen = 2192 := by decide +kernel
theorem test_encv_too_big : (ran 0x03030141 (payloadState (List.replicate 20 0x61))).status.word = 0x00014107 := by
  decide +kernel

/-- HELLO under PAD_FILL = ISO, by ENC and by ENCV (V62). -/
theorem test_enc_iso :
    (match encFilling .iso 0 0 (payloadState hello) with | .next t => bytesFrom 0x2000 19 t | _ => []) =
      [0x20, 0x2B, 0x0B, 0x78, 0xCC, 0x00, 0xEC, 0x11, 0xEC, 0x11, 0xEC, 0x11, 0xEC, 0x11, 0xEC, 0x11, 0xEC, 0x11, 0xEC] ∧
    (match encvFilling .iso 1 0 0 (payloadState hello) with | .next t => bytesFrom 0x2000 8 t | _ => []) =
      [0x20, 0x2B, 0x0B, 0x78, 0xCC, 0x00, 0xEC, 0x11] := by decide +kernel

/-- The tie of R282: at tier 0 the split and the merged form both cost 57 bits, and the merged form is kept. -/
theorem test_segmentation_tie :
    segmentation .auto ([0x31, 0x32, 0x33, 0x34, 0x35, 0x36, 0x37, 0x41].map (BitVec.ofNat 8)) 0 = (57, [⟨.A, 8⟩]) := by
  decide +kernel

/-! ConstraintSolver (R341, V70 to V73). The draw 0 is the identity. -/

theorem test_solve_identity :
    bytesFrom 0x5C00 8 (solvedWith (fun _ => 0) (rawState [1, 0, 1, 0, 2, 2, 2, 2])) = [1, 0, 1, 0, 0, 1, 0, 1] ∧
    bytesFrom 0x5100 7 (solvedWith (fun _ => 0) (rawState [1, 0, 1, 0, 2, 2, 2, 2])) = [180, 191, 240, 211, 179, 156, 162] := by
  decide +kernel

/-- Every element put after those that follow it: the reversed order (V71). -/
theorem test_solve_reversed :
    bytesFrom 0x5C00 8 (solvedWith (fun n => n) (rawState [1, 0, 1, 0, 2, 2, 2, 2])) = [1, 0, 1, 0, 0, 0, 1, 1] := by
  decide +kernel
theorem test_solveblk_degenerate :
    bytesFrom 0x5C00 8 (ran 0x01000050 (rawState [1, 0, 1, 0, 0, 0, 0, 0])) = [1, 0, 1, 0, 0, 0, 0, 0] ∧
    (ran 0x01000050 (rawState [1, 0, 1, 0, 0, 0, 0, 0])).r2 = 3 := by decide +kernel
theorem test_solveblk_bad_label : (ran 0x01000050 (rawState [1, 0, 1, 4, 0, 0, 0, 0])).status.word = 0x00035010 := by
  decide +kernel

/-! SymbolAssembler (R371 to R374, V60). -/

theorem test_build_ecc :
    blocksEcc (blockRow 1 .L) (helloStream.map (BitVec.ofNat 8)) = [119, 185, 163, 11, 23, 181, 112].map (BitVec.ofNat 8) := by
  decide +kernel

/-- Row 20 of V60, 0x1FD955. -/
theorem test_build_row_20 :
    bitsValue (((matrixBits 1 .L 0 (helloStream.map (BitVec.ofNat 8))
      ([119, 185, 163, 11, 23, 181, 112].map (BitVec.ofNat 8))).drop 420).take 21) = 0x1FD955 := by decide +kernel
theorem test_build_needs_the_length : (ran 0x00000060 { layoutState 1 .L with blen := 100 }).status.word = 0x00646008 := by
  decide
theorem test_assemble_needs_a_mask : (ran 0x00000061 (ran 0x00000130 State.reset)).status.word = 0x0000610D := by decide
theorem test_get_needs_a_grid : (ran 0x00000062 State.reset).status.word = 0x0000620E := by decide
theorem test_get : (ran 0x00000162 (markGrid (writeGrid [false, true] (layoutState 1 .L)))).r0 = 1 := by decide
theorem test_size : (ran 0x00000063 (markGrid (layoutState 1 .L))).r0 = 21 := by decide

/-! The API (R111, R113; V50, P3). -/

/-- `encodePayload("HELLO", L)`, the mode absent: the version and the first bytes of the bit stream. -/
theorem test_encodePayload :
    (match (encodePayload (hello.map (BitVec.ofNat 8)) 0 none).run State.reset with
      | .next (_, v, bits) => decide (v = 1 ∧ packBytes bits = helloStream.map (BitVec.ofNat 8))
      | .fault _ => false
      | .refused _ => false) = true := by decide +kernel

/-- A bit stream placed by the host is what BUILD finds: 152 bits for version 1-L, 151 are one too few. -/
theorem test_placeBitStream :
    (match (writes (placeBitStream (List.replicate 152 true))).run State.reset with
      | .next (t, _) => decide (t.blen = 152 ∧ readByte t 0x2012 = 0xFF)
      | .fault _ => false
      | .refused _ => false) = true ∧
    (match (buildSymbol (some (List.replicate 151 true)) 1 0 0).run State.reset with
      | .next (t, _) => decide (t.status.word = 0x00976008)
      | .fault _ => false
      | .refused _ => false) = true := by decide +kernel

/-! Other tables (R250, R255): version 1-L as two blocks of 9 data and 4 ecc codewords, alignment coordinates of version 2 at 6
and 16. The expected values are worked out by hand from R163, R192, R195, R199. -/

def otherTables : QrTables :=
  ⟨[⟨26, ⟨4, 2, 9, 0⟩, ⟨10, 1, 16, 0⟩, ⟨13, 1, 13, 0⟩, ⟨17, 1, 9, 0⟩⟩, ⟨44, ⟨10, 1, 34, 0⟩, ⟨16, 1, 28, 0⟩, ⟨22, 1, 22, 0⟩, ⟨28, 1, 16, 0⟩⟩],
   [[], [6, 16]]⟩

/-- The least RS_MAXLEN, as R163 prints it for the printed BLOCK_TABLE. -/
theorem test_least_maxlen :
    (List.range 31).map leastMaxLen =
      [0, 0, 0, 0, 0, 0, 0, 19, 0, 0, 34, 0, 0, 13, 0, 55, 28, 9, 69, 0, 81, 0, 88, 0, 99, 0, 108, 0, 117, 0, 123] := by
  decide +kernel

/-- CAPINFO, CELL at the first bit of codeword 1 and at an alignment cell. -/
theorem test_other_layouts :
    (match capinfoUnder otherTables (layoutState 1 .L) with | .next t => (t.r0, t.r1, t.r2) | _ => 0) = (2, 18, 26) ∧
    (match cellUnder otherTables 20 16 (layoutState 1 .L) with | .next t => (t.r0, t.r1, t.r2) | _ => 0) = (7, 1, 0x000107) ∧
    (match cellUnder otherTables 15 14 (layoutState 2 .L) with | .next t => (t.r0, t.r1, t.r2) | _ => 0) = (3, 1, 0) := by
  decide +kernel

/-- RSENC of 9 bytes with e = 4 and of 19 with e = 7, and ENCV's capacity. -/
theorem test_other_pairs :
    (match rsencWithin recommended 9 4 State.reset otherTables with | .next t => t.r0 | _ => 0) = 4 ∧
    (match rsencWithin recommended 19 7 State.reset otherTables with | .next t => t.status.word | _ => 0) = 0x0713200A ∧
    (match encvFilling .zero 1 0 0 (payloadState hello) otherTables with | .next t => t.blen | _ => 0) = 144 := by
  decide +kernel

/-! Witnesses: a state and operands that meet all hypotheses of a statement together, every clause at a boundary value. -/

/-- An outcome that is a next state with no fault recorded. -/
def completed : Result → Bool
  | .next t => decide (t.status = ⟨0, 0, 0⟩)
  | .fault _ => false
  | .refused _ => false

theorem completed_next {r : Result} (h : completed r = true) : ∃ t, r = .next t ∧ t.status = ⟨0, 0, 0⟩ := by
  cases r with
  | next t => exact ⟨t, rfl, of_decide_eq_true h⟩
  | fault r => exact nomatch r
  | refused r => simp [completed] at h

/-- DecodeOfEncode, EncodeOfDecode. -/
theorem witness_decode_encode :
    (Instr.encv 255 0 255).wellFormed = true ∧ decode 0xFFFFFF41 = .ok (.encv 255 255 255) := by decide

/-- DecoderIsTheCommandTable: a word of a row, a word of none, no fault recorded. -/
theorem witness_table :
    (∀ r ∈ opcodeTable, (0x000000FF#32) &&& r.mask ≠ r.pattern) ∧
    (∃ r ∈ opcodeTable, (0x01000050#32) &&& r.mask = r.pattern) ∧ State.reset.status.fault = 0 := by decide

/-- StepRunsTheDecodedCommand: no action, an action, a command. -/
theorem witness_step :
    State.reset.pending = [] ∧ (enqueueCommand 0x00000130 State.reset).pending = [.regWrite 0 0x00000130] ∧
    (enqueueCommand 0x00000130 State.reset).status.fault = 0 ∧ decode 0x00000130 = .ok (.layout 1 0) := by decide

/-- CommandIssue: its four cases. -/
theorem witness_issue :
    (ran 0x00000062 State.reset).status.fault ≠ 0 ∧ State.reset.status.fault = 0 ∧
    decode 0x000000FF = .error (.unlistedOpcode 0xFF) ∧ decode 0x00000063 = .ok .size := by decide

/-- FaultWritesStatusOnly, NopAndClrf: a command that faults. -/
theorem witness_fault :
    State.reset.status = ⟨0, 0, 0⟩ ∧
    ∃ t, exec (.layout 41 0) State.reset = .next t ∧ t.status ≠ State.reset.status ∧ Instr.layout 41 0 ≠ .clrf :=
  ⟨rfl, _, rfl, by decide, by decide⟩

/-- HostRegisterAccesses: a write of LEN0. RegisterImages: a reserved index. -/
theorem witness_registers :
    (∃ t, perform (.regWrite 5 0xFFFFFFFF) State.reset = .next t) ∧ (9 ≤ (15 : Fin 16).val) ∧ 9 ≤ (9 : Fin 16).val :=
  ⟨⟨_, rfl⟩, by decide, by decide⟩

/-- HostMemoryAndReservedAddresses: the last mapped address, the first and last reserved ones around it, a command. -/
theorem witness_memory :
    mapped 0x5FFF = true ∧ mapped 0x6000 = false ∧ mapped 0x5120 = false ∧ mapped 0xFFFF = false ∧
    (∃ t, perform (.memWrite 0x5FFF 1) State.reset = .next t) ∧ ∃ t, exec .nop State.reset = .next t :=
  ⟨by decide, by decide, by decide, by decide, ⟨_, rfl⟩, ⟨_, rfl⟩⟩

/-- StepKeepsInv: a state with a layout that meets the invariant and steps. -/
theorem witness_invariant :
    (layoutState 40 .H).Inv ∧ ∃ t, step (layoutState 40 .H) = .next t :=
  ⟨⟨by decide, by decide, by decide, by decide, by decide, by decide, by decide, by decide⟩, _, rfl⟩

/-- CommandsStoreOnlyWhatTheyName: the address past the last byte GFGEN 30 stores. -/
theorem witness_frame :
    (∃ t, exec (.gfgen 30) State.reset = .next t) ∧
    ∀ r ∈ stored State.reset (.gfgen 30), ¬ inRange (0x5200 + 30) r := by
  refine ⟨⟨_, rfl⟩, fun r hr => ?_⟩
  obtain rfl : r = (0x5200, 30) := by simpa [stored] using hr
  simp [inRange]

/-- CommandsWriteOnlyTheRegistersTheyName: commands on both sides of every clause. -/
theorem witness_register_frame :
    writesR0 .nop = false ∧ writesR12 .size = false ∧ writesBlen .build = false ∧ isLayout (.setmask 0) = false ∧
    isSetmask (.layout 1 0) = false ∧ writesGrid (.get 0 0) = false ∧ writesGrid .assemble = true ∧
    isSolveblk .build = false ∧ ∃ t, exec .nop State.reset = .next t :=
  ⟨rfl, rfl, rfl, rfl, rfl, rfl, rfl, rfl, _, rfl⟩

/-- CommandsReadOnlyWhatTheyName: GFADD and two states that differ in LEN0, RSENC and two states that differ in PAY but
not in MSG. -/
theorem witness_reads :
    (ReadsAgree (.gfadd 1 2) State.reset { State.reset with len0 := 7 } ∧ State.reset.status = ⟨0, 0, 0⟩ ∧
      (∃ t, exec (.gfadd 1 2) State.reset = .next t ∧ t.status = ⟨0, 0, 0⟩) ∧
      ∃ t, exec (.gfadd 1 2) { State.reset with len0 := 7 } = .next t) ∧
    ReadsAgree (.rsenc 1 7) (poked 0x5000 [9] State.reset) (poked 0x5000 [9] (poked 0x0000 [5] State.reset)) ∧
    (∃ t, exec (.rsenc 1 7) (poked 0x5000 [9] State.reset) = .next t ∧ t.status = ⟨0, 0, 0⟩) ∧
    ∃ t, exec (.rsenc 1 7) (poked 0x5000 [9] (poked 0x0000 [5] State.reset)) = .next t := by
  refine ⟨⟨⟨rfl, ?_, ?_, ?_, ?_, ?_, ?_, ?_⟩, rfl, ⟨_, rfl, rfl⟩, ⟨_, rfl⟩⟩, ⟨rfl, ?_, ?_, ?_, ?_, ?_, ?_, ?_⟩,
    completed_next (by decide +kernel), (completed_next (by decide +kernel)).imp fun _ h => h.1⟩
  all_goals try simp [readsCfg, readsLen0, isSolveblk, readRanges]
  intro a ha
  obtain rfl : a = 0x5000 := by simp only [inRange] at ha; omega
  decide

/-- GflogGivesTheExponent, GfrowWritesTheMultiples, GfgenWritesTheGeneratorPolynomial: zero and non-zero operands, the first
and last index, the degrees around both ends of the range. -/
theorem witness_galois :
    (0 : Byte) = 0 ∧ (255 : Byte) ≠ 0 ∧ 255 < 256 ∧ ¬ inRange 0x5300 (0x5200, 256) ∧
    (0 : Byte).toNat < 1 ∧ 30 < (31 : Byte).toNat ∧ 1 ≤ (1 : Byte).toNat ∧ (30 : Byte).toNat ≤ 30 := by
  refine ⟨rfl, by decide, by decide, by simp [inRange], by decide, by decide, by decide, by decide⟩

/-- RsencMakesCodewords, RsbitGivesTheSingleBitContribution: for the unit's RS_MAXLEN a pair of the block table and pairs
no choice supports, for a chosen one the pairs at its bound and above it; bit positions 7 and 8; the last block of version 40.
EncoderIsLinear: two messages of one length. -/
theorem witness_codec :
    Supported Config.rsMaxLen 19 7 ∧ ¬ Supported Config.rsMaxLen 0 7 ∧ ¬ Supported Config.rsMaxLen 19 31 ∧
    Supported recommended 19 7 ∧ ¬ Supported recommended 20 7 ∧ 7 < (8 : Byte).toNat ∧ (7 : Byte).toNat ≤ 7 ∧
    (18 : Byte).toNat + 1 ≤ rsMaxLen recommended (7 : Byte).toNat ∧ rsMaxLen recommended (7 : Byte).toNat < (19 : Byte).toNat + 1 ∧
    80 < nblocks (blockRow 40 .H) ∧ [(1 : Byte)].length = [(2 : Byte)].length := by
  refine ⟨⟨by decide, by decide, by decide, le_max_of_le_left (by decide +kernel)⟩, fun h => absurd h.2.2.1 (by decide),
    fun h => absurd h.2.1 (by decide), ?_⟩
  unfold Supported
  decide +kernel

/-- LayoutSelects, SetmaskSelects: the values around the ends of the ranges. -/
theorem witness_selection :
    (0 : Byte).toNat < 1 ∧ 40 < (41 : Byte).toNat ∧ 1 ≤ (1 : Byte).toNat ∧ (40 : Byte).toNat ≤ 40 ∧
    3 < (4 : Byte).toNat ∧ (3 : Byte).toNat ≤ 3 ∧ 7 < (8 : Byte).toNat ∧ (7 : Byte).toNat ≤ 7 := by decide

/-- CellClassifiesEveryModule, MaskbitFollowsThePredicates, BlockStructure, FmtinfoReadsTheFormatWord: the last cell of the
smallest and of the largest layout, with a mask. -/
theorem witness_layout :
    HasLayoutAndMask (layoutState 1 .L) ∧ 20 < curSide (layoutState 1 .L) ∧
    HasLayoutAndMask (layoutState 40 .H) ∧ 176 < curSide (layoutState 40 .H) ∧ 80 < nblocks (curRow (layoutState 40 .H)) := by
  simp only [HasLayoutAndMask, HasLayout]
  decide

/-- FmtinfoReadsTheFormatWord, VerinfoReadsTheVersionWord, GetAndSizeReadTheGrid: the other cases. -/
theorem witness_layout_cases :
    State.reset.cfg.layv = false ∧ State.reset.cfg.gridv = false ∧ (selectLayout 1 .L State.reset).cfg.mskv = false ∧
    (selectLayout 1 .L State.reset).cfg.layv = true ∧ curVersion (layoutState 6 .L) < 7 ∧ 7 ≤ curVersion (layoutState 7 .L) ∧
    (markGrid (layoutState 1 .L)).cfg.gridv = true ∧ (20 : Byte).toNat < curSide (layoutState 1 .L) ∧
    curSide (layoutState 1 .L) ≤ (21 : Byte).toNat := by decide

/-- FinderBlocks, SeparatorsAndTiming, AlignmentBlocks, InformationCells: the clauses at their ends, versions 1, 2 and 7. -/
theorem witness_patterns :
    (curSide (layoutState 1 .L) - 7, 0) ∈ finderCorners (layoutState 1 .L) ∧
    (13 + 1 = curSide (layoutState 1 .L) - 7 ∧ 13 < curSide (layoutState 1 .L)) ∧ (8 + 9 ≤ curSide (layoutState 1 .L)) ∧
    (12 + 9 = curSide (layoutState 1 .L)) ∧
    18 ∈ alignCoords (curVersion (layoutState 2 .L)) ∧ (18, 18) ≠ (curSide (layoutState 2 .L) - 7, 6) ∧
    (18, 18) ≠ (6, curSide (layoutState 2 .L) - 7) ∧ 7 ≤ curVersion (layoutState 7 .Q) := by decide

/-- CodewordBitsHaveOneCell: the first cell of the walk, a Data cell, the last bit of the last codeword, and an entry of the
stream and none past its end. -/
theorem witness_codeword_cell :
    (∃ t, exec (.cell 20 20) (layoutState 1 .L) = .next t ∧ (t.r0 = 7 ∨ t.r0 = 8)) ∧
    HasLayout (layoutState 1 .L) ∧ 25 < totalCodewords (curRow (layoutState 1 .L)) ∧
    isWalked (layoutState 1 .L) (20, 20) = true ∧ (walkedCells (layoutState 1 .L))[0]? = some (20, 20) ∧
    (codewordEntries (curRow (layoutState 1 .L)))[25]? = some (8, 0, 6) ∧
    (codewordEntries (curRow (layoutState 1 .L)))[26]? = none := by
  refine ⟨⟨_, rfl, .inl ?_⟩, ?_, ?_, ?_, ?_, ?_, ?_⟩
  · decide +kernel
  · unfold HasLayout; decide
  · decide
  · decide +kernel
  · decide +kernel
  · decide
  · decide

/-- CodewordBitsHaveOneCell, the last clause: version 2 has Padding cells, which the walk reaches (R207). -/
theorem witness_padding_cell :
    HasLayout (layoutState 2 .L) ∧ isWalked (layoutState 2 .L) (0, 16) = true ∧ (0, 16) ∈ zigzag (curSide (layoutState 2 .L)) ∧
    (ran 0x00100032 (layoutState 2 .L)).r0 = 9 := by
  refine ⟨by unfold HasLayout; decide, by decide +kernel, by decide +kernel, by decide +kernel⟩

/-- The start of the stream of version 7-Q and its first ecc entry (R195). -/
theorem test_codewordEntries :
    (codewordEntries (blockRow 7 .Q)).take 8 =
      [(7, 0, 0), (7, 1, 0), (7, 2, 0), (7, 3, 0), (7, 4, 0), (7, 5, 0), (7, 0, 1), (7, 1, 1)] ∧
    (codewordEntries (blockRow 7 .Q))[84]? = some (7, 2, 14) ∧ (codewordEntries (blockRow 7 .Q))[88]? = some (8, 0, 0) ∧
    (codewordEntries (blockRow 7 .Q)).length = 196 := by decide +kernel

/-- SeparatorsAndTiming: a cell of row 6 in no alignment block, and one of version 7 in the block at (22, 6) (R222). -/
theorem witness_timing :
    (∀ cx ∈ alignCoords 1, False) ∧ IsAlignmentCentre (layoutState 7 .Q) 22 6 ∧ 8 ≤ 22 ∧ 22 + 9 ≤ curSide (layoutState 7 .Q) ∧
    apart 22 22 ≤ 2 ∧ apart 6 6 ≤ 2 ∧ ¬ InAlignment (layoutState 1 .L) 8 6 := by
  refine ⟨by decide, ?_, by decide, by decide, by decide, by decide, ?_⟩
  · unfold IsAlignmentCentre; decide
  · rintro ⟨cx, cy, ⟨hx, -⟩, -⟩
    exact (show ∀ c ∈ alignCoords (curVersion (layoutState 1 .L)), False by decide) cx hx

/-- A payload of 41 digits, which fits version 1-L as digits only. -/
def digits41 : State := payloadState (List.replicate 41 0x37)

/-- EncCompletes, EncvCompletes: HELLO in mode Alphanumeric by its single Byte segment, 17 bytes in version 1-L (V65) and 41
digits in mode Auto by their segmentation. -/
theorem witness_encoder :
    levelOf? 0 = some .L ∧ modeOf? 2 = some (.fixed .A) ∧ (payloadState hello).len0.toNat ≤ 8192 ∧
    (∀ b ∈ payload (payloadState hello), modeCarries 2 b) ∧ Fits (.fixed .A) 40 .L (payloadState hello) ∧
    Fits (.fixed .A) 1 .L (payloadState hello) ∧ Fits (.fixed .B) 1 .L (payloadState (List.replicate 17 0x61)) ∧
    Fits .auto 1 .L digits41 ∧ ¬ 12 + 8 * digits41.len0.toNat ≤ 8 * dataTotal (blockRow 1 .L) := by
  refine ⟨rfl, rfl, by decide, ?_, .inr (by decide), .inr (by decide), .inr (by decide), .inl (by decide +kernel), by decide⟩
  unfold modeCarries
  decide +kernel

/-- EncIsEncvAtTheLeastVersion, EncodedStreamReadsBack: the empty payload, and HELLO, which takes a segment; under
ISO also the 17 bytes of V65, which leave exactly the 4 bits of the terminator. -/
theorem witness_encoded :
    (State.reset.status = ⟨0, 0, 0⟩ ∧ ∃ t, exec (.enc 0 0) State.reset = .next t ∧ t.status = ⟨0, 0, 0⟩) ∧
    (payloadState hello).status = ⟨0, 0, 0⟩ ∧
    (∃ t, exec (.enc 0 0) (payloadState hello) = .next t ∧ t.status = ⟨0, 0, 0⟩) ∧
    (∃ t, encFilling .iso 0 0 (payloadState hello) = .next t ∧ t.status = ⟨0, 0, 0⟩) ∧
    ∃ t, encvFilling .iso 1 0 3 (payloadState (List.replicate 17 0x61)) = .next t ∧ t.status = ⟨0, 0, 0⟩ :=
  ⟨⟨rfl, completed_next (by decide +kernel)⟩, rfl, completed_next (by decide +kernel), completed_next (by decide +kernel),
    completed_next (by decide +kernel)⟩

/-- EncoderFaults, the operand clauses: a byte that Numeric does not carry after two that it does (V78), and the values past
the ends of the ranges. -/
theorem witness_encoder_faults :
    levelOf? 0 = some .L ∧ ¬ modeCarries 1 (readByte (payloadState [0x31, 0x32, 0x41]) 2) ∧
    (∀ j, j < 2 → modeCarries 1 (readByte (payloadState [0x31, 0x32, 0x41]) j)) ∧
    8192 < ({ State.reset with len0 := 8193 } : State).len0.toNat := by
  refine ⟨rfl, ?_, ?_, by decide⟩
  · unfold modeCarries; decide +kernel
  · unfold modeCarries; decide +kernel

/-- EncoderFaults, the capacity clauses: 3000 bytes in mode Byte fit no version. -/
theorem witness_capacity :
    ∃ s : State, s.len0.toNat ≤ 8192 ∧ modeOf? 3 = some (.fixed .B) ∧ (∀ b ∈ payload s, modeCarries 3 b) ∧
      ∀ v, 1 ≤ v → v ≤ 40 → 8 * dataTotal (blockRow v .L) < (segmentation (.fixed .B) (payload s) (tier v)).1 := by
  refine ⟨{ State.reset with len0 := 3000 }, by decide, rfl, fun b _ => ⟨fun h => absurd h (by decide), fun h => absurd h (by decide)⟩, fun v _ _ => ?_⟩
  obtain ⟨h, -⟩ := blockRow_bounds v .L
  have hl : (payload { State.reset with len0 := 3000 }).length = 3000 := by simp [payload, bytesAt]
  have hn : payload { State.reset with len0 := 3000 } ≠ [] := by
    intro h0
    rw [h0] at hl
    simp at hl
  simp only [segmentation, fixedSegments, if_neg hn, hl, segbits]
  omega

/-- SegmentationIsValidAndBounded: a payload that is not empty. -/
theorem witness_segmentation : hello.map (BitVec.ofNat 8) ≠ [] := by decide

/-- RawSolveKeepsTheContract, RankIndependentOfDraw, SolverFaults: the template of R341. -/
theorem witness_raw_solve :
    RawLengths (rawState [1, 0, 1, 0, 2, 2, 2, 2]) ∧
    Supported Config.rsMaxLen ((rawState [1, 0, 1, 0, 2, 2, 2, 2]).len0.toNat / 8)
      ((rawState [1, 0, 1, 0, 2, 2, 2, 2]).len1.toNat / 8) ∧
    LabelsLegal (rawState [1, 0, 1, 0, 2, 2, 2, 2]) ∧ (rawState [1, 0, 1, 0, 2, 2, 2, 2]).status = ⟨0, 0, 0⟩ ∧
    (solvedWith (fun _ => 0) (rawState [1, 0, 1, 0, 2, 2, 2, 2])).r0 = 3 ∧
    (solvedWith (fun n => n) (rawState [1, 0, 1, 0, 2, 2, 2, 2])).r0 = 3 ∧
    (solvedWith (fun _ => 0) (rawState [1, 0, 1, 0, 2, 2, 2, 2])).status = ⟨0, 0, 0⟩ := by
  refine ⟨?_, ⟨by decide, by decide, by decide, le_max_of_le_left (by decide +kernel)⟩, ?_⟩
  · unfold RawLengths; decide
  · unfold LabelsLegal Legal; decide +kernel

/-- The degenerate template of R341, in which the clauses on the rank being the number of targets do not hold but some values
do meet a target: with the last bit free and the targets of rs([0xA0], 7) already met. -/
theorem witness_possible :
    TargetsMet (poked 0x5800 [2, 2, 3] (rawState [1, 0, 1, 0, 0, 0, 0, 3]))
      (eccBit (poked 0x5800 [2, 2, 3] (rawState [1, 0, 1, 0, 0, 0, 0, 3])) fun i => i = 0 ∨ i = 2) ∧
    freeBits (poked 0x5800 [2, 2, 3] (rawState [1, 0, 1, 0, 0, 0, 0, 3])) = [7] ∧
    (solvedWith (fun _ => 0) (poked 0x5800 [2, 2, 3] (rawState [1, 0, 1, 0, 0, 0, 0, 3]))).r0 = 1 ∧
    (solvedWith (fun _ => 0) (poked 0x5800 [2, 2, 3] (rawState [1, 0, 1, 0, 0, 0, 0, 3]))).r2 = 3 := by
  unfold TargetsMet
  decide +kernel

/-- A template for the one block of version 1-L: Fixed data but two Free bits, and one target. -/
def blockState : State :=
  { poked 0x5400 ([2, 3] ++ List.replicate 150 0) (poked 0x5800 (3 :: List.replicate 55 0) (layoutState 1 .L)) with
    len0 := 152, len1 := 56 }

/-- BlockSolveKeepsTheContract: a template with a target, met at rank 1. -/
theorem witness_block_solve :
    HasLayoutAndMask blockState ∧ 0 < nblocks (curRow blockState) ∧ blockState.len0.toNat = 8 * dataLen (curRow blockState) 0 ∧
    blockState.len1.toNat = 8 * (curRow blockState).eccLen ∧ LabelsLegal blockState ∧ targetBits blockState = [0] ∧
    freeBits blockState = [0, 1] := by
  unfold HasLayoutAndMask HasLayout LabelsLegal Legal
  decide +kernel

/-- BlockSolveKeepsTheContract, clause (b): the solve of that template has rank 1, the number of its targets, and ecc bit 0
renders the target's 1 under its module's mask bit. -/
theorem witness_block_target :
    (match solveLayoutBlock (fun _ => 0) 0 blockState with
      | .next t => decide (t.r0 = 1 ∧ t.r2 = 1 ∧
          ((readByte t 0x5100).getLsbD 7 ^^ (ownerMaskBits .ecc 0 1 blockState).headD false) = true)
      | .fault _ => false
      | .refused _ => false) = true := by decide +kernel

/-- SolverFaults, the length and label clauses: 12 labels, 264 ecc labels, 20 bytes with e = 7, TD[3] = 4 first, TE[0] = 4
first (V103 to V107, under the recommended RS_MAXLEN), 31 ecc bytes, which no RS_MAXLEN supports, a block index past the last, the wrong lengths of a block. -/
theorem witness_solver_faults :
    ¬ (12 % 8 = 0 ∧ 8 ≤ 12 ∧ 12 ≤ 1024) ∧ ¬ (264 % 8 = 0 ∧ 8 ≤ 264 ∧ 264 ≤ 256) ∧ ¬ Supported recommended (160 / 8) (56 / 8) ∧
    ¬ Legal (tdLabel (rawState [1, 0, 1, 4, 0, 0, 0, 0]) 3) ∧ (∀ j, j < 3 → Legal (tdLabel (rawState [1, 0, 1, 4, 0, 0, 0, 0]) j)) ∧
    ¬ Legal (teLabel (poked 0x5800 [4] (rawState [1, 0, 1, 0, 0, 0, 0, 0])) 0) ∧
    nblocks (curRow blockState) ≤ 1 ∧ ({ blockState with len0 := 144 } : State).len0.toNat ≠ 8 * dataLen (curRow blockState) 0 ∧
    ({ blockState with len1 := 48 } : State).len1.toNat ≠ 8 * (curRow blockState).eccLen ∧
    RawLengths { State.reset with len0 := 8, len1 := 248 } ∧ ¬ Supported Config.rsMaxLen (8 / 8) (248 / 8) := by
  refine ⟨by decide, by decide, ?_, ?_, ?_, ?_, by decide, by decide, by decide, ?_, fun h => absurd h.2.1 (by decide)⟩
  · unfold Supported; decide +kernel
  · unfold Legal; decide +kernel
  · unfold Legal; decide +kernel
  · unfold Legal; decide +kernel
  · unfold RawLengths; decide

/-- EveryPermutationIsADraw. -/
theorem witness_permutation : [2, 0, 1].Perm [0, 1, 2] := by decide

/-- InsertKeepsTheSystemReduced, SolveLeavesNothingAtThePivots: a system of one row, a vector it accepts and one it does
not. -/
theorem witness_linear_system :
    Reduced (fun i => if i = 9 then 1 else if i = 8 then 2 else 1) [⟨0, 1, [9]⟩] ∧
    (insertVec 8 2 [⟨0, 1, [9]⟩]).isSome = true ∧ insertVec 7 1 [⟨0, 1, [9]⟩] = none := by
  refine ⟨⟨by simp, by simp, by simp, by simp, by simp [xorOf]⟩, by decide +kernel, by decide +kernel⟩

/-- TargetsAreMetUpToTheLeftover: a block of one data codeword with one free bit and one target. -/
theorem witness_template :
    ∃ p : Template, TemplateOk p ∧ 0 < p.targets.length := by
  refine ⟨⟨1, 7, ⟨true, false⟩ :: List.replicate 7 ⟨false, false⟩, ⟨true, true⟩ :: List.replicate 55 ⟨false, false⟩, [], []⟩,
    by unfold TemplateOk; decide, by decide⟩

/-- BuildAssemblesTheBitStream, AssembleAssemblesTheData, GridRendersTheCodewords, AssembleAfterBuildChangesNothing. -/
theorem witness_build :
    HasLayoutAndMask { layoutState 1 .L with blen := 152 } ∧ ({ layoutState 1 .L with blen := 152 } : State).mem.wf = true ∧
    ({ layoutState 1 .L with blen := 152 } : State).blen.toNat = 8 * dataTotal (curRow { layoutState 1 .L with blen := 152 }) := by
  unfold HasLayoutAndMask HasLayout
  decide

/-- BuildAssemblesTheBitStream under other tables. -/
theorem witness_other_build :
    RowConsistent recommended otherTables (curVersion (layoutState 1 .L)) (layoutState 1 .L).cfg.ecl ∧
    ({ layoutState 1 .L with blen := 144 } : State).blen.toNat = 8 * dataTotal (curRow (layoutState 1 .L) otherTables) := by
  refine ⟨⟨by decide, by decide, by decide +kernel, by decide +kernel, by decide, by decide⟩, by decide⟩

/-- PreconditionFaults: coordinates and block indices past the last, a wrong length. -/
theorem witness_preconditions :
    curSide (layoutState 1 .L) ≤ 21 ∧ 20 < curSide (layoutState 1 .L) ∧ nblocks (curRow (layoutState 1 .L)) ≤ 1 ∧
    ({ layoutState 1 .L with blen := 100 } : State).blen.toNat ≠ 8 * dataTotal (curRow (layoutState 1 .L)) ∧
    (layoutState 1 .L).cfg.mskv = true ∧ (layoutState 1 .L).cfg.layv = true := by decide

end Sys2Proof.Tests
end

section
/-! The segmentation of R278 to R283: its segments cover the payload with types the bytes allow, and its total is what they
cost. -/

namespace Sys2Proof.Proofs

open Sys2Proof Sys2Proof.Machine Sys2Proof.Claims

/-! Character by character: the types a list of segments gives the payload, against the classes the payload has. -/

/-- A list that matches copies of one element has their number, and all of it matches that element. -/
theorem forall₂_replicate_right {α β : Type} {R : α → β → Prop} {l : List α} {n : Nat} {x : β} :
    List.Forall₂ R l (List.replicate n x) ↔ l.length = n ∧ ∀ a ∈ l, R a x := by
  induction l generalizing n with
  | nil => cases n <;> simp [List.replicate_succ]
  | cons a l ih => cases n <;> simp [List.replicate_succ, ih, and_left_comm]

/-- The type of the segment of every character. -/
def segmentTypes (segs : List Segment) : List CharClass := segs.flatMap fun g => List.replicate g.len g.type

/-- The class of every character of a list of spans. -/
def spanClasses (sps : List (CharClass × Nat)) : List CharClass := sps.flatMap fun sp => List.replicate sp.2 sp.1

/-- Every character's type is allowed for its class (R272). -/
def Carries (classes types : List CharClass) : Prop := List.Forall₂ (fun c ty => allowed c ty = true) classes types

/-- The cost of a segment list (R277). -/
def segmentsCost (t : Nat) (segs : List Segment) : Nat := cost t (segs.map fun g => (g.type, g.len))

@[simp] theorem segmentTypes_nil : segmentTypes [] = [] := rfl

@[simp] theorem segmentTypes_cons (g : Segment) (segs : List Segment) :
    segmentTypes (g :: segs) = List.replicate g.len g.type ++ segmentTypes segs := rfl

@[simp] theorem segmentTypes_append (segs segs' : List Segment) :
    segmentTypes (segs ++ segs') = segmentTypes segs ++ segmentTypes segs' := by simp [segmentTypes]

@[simp] theorem segmentsCost_nil (t : Nat) : segmentsCost t [] = 0 := rfl

@[simp] theorem segmentsCost_cons (t : Nat) (g : Segment) (segs : List Segment) :
    segmentsCost t (g :: segs) = hdr g.type t + segbits g.type g.len + segmentsCost t segs := rfl

@[simp] theorem segmentsCost_reverse (t : Nat) (segs : List Segment) : segmentsCost t segs.reverse = segmentsCost t segs := by
  simp [segmentsCost, cost, List.map_reverse, List.sum_reverse]

/-- The spans list the class of every payload byte in order (R273). -/
theorem spanClasses_spans (bytes : List Byte) : spanClasses (spans bytes) = bytes.map classOf := by
  induction bytes with
  | nil => rfl
  | cons b bytes ih =>
    rw [List.map_cons, ← ih, spans]
    split
    next h => simp [h, spanClasses]
    next c n rest h =>
      split_ifs with hc
      · simp [h, hc, spanClasses, List.replicate_succ]
      · simp [h, spanClasses]

/-- More characters of one allowed class. -/
theorem Carries.append_replicate {classes types : List CharClass} {c ty : CharClass} (h : Carries classes types)
    (ha : allowed c ty = true) (n : Nat) : Carries (classes ++ List.replicate n c) (types ++ List.replicate n ty) :=
  List.rel_append h (forall₂_replicate_right.mpr ⟨by simp, fun _ hb => List.eq_of_mem_replicate hb ▸ ha⟩)

/-- Segments whose types carry the classes of the payload cover it. -/
theorem covers_of_carries {segs : List Segment} {bytes : List Byte}
    (h : Carries (bytes.map classOf) (segmentTypes segs)) : Covers segs bytes := by
  replace h : List.Forall₂ (fun b ty => allowed (classOf b) ty = true) bytes (segmentTypes segs) :=
    List.forall₂_map_left_iff.mp h
  induction segs generalizing bytes with
  | nil => exact List.forall₂_nil_right_iff.mp h
  | cons g segs ih =>
    have hlen : g.len ≤ bytes.length := by simp [h.length_eq]
    have hhead := List.forall₂_take_append _ _ _ h
    have htail := List.forall₂_drop_append _ _ _ h
    rw [List.length_replicate] at hhead htail
    exact ⟨hlen, (forall₂_replicate_right.mp hhead).2, ih htail⟩

/-! The trees of R279. -/

/-- The least of some trees is one of them, and there is one unless there are no trees. -/
theorem leastTree_cases (ps : List Tree) : (ps = [] ∧ leastTree ps = none) ∨ ∃ p ∈ ps, leastTree ps = some p := by
  induction ps with
  | nil => exact .inl ⟨rfl, rfl⟩
  | cons p ps ih =>
    refine .inr ?_
    rw [leastTree]
    obtain ⟨-, h⟩ | ⟨q, hq, h⟩ := ih
    · exact ⟨p, by simp, by rw [h]⟩
    · simp only [h]
      split_ifs
      · exact ⟨p, by simp, rfl⟩
      · exact ⟨q, by simp [hq], rfl⟩

/-- The other trees are the present ones of the other types. -/
theorem mem_otherTrees {best : Best} {ty : CharClass} {p : Tree} :
    p ∈ otherTrees best ty ↔ ∃ u, u ≠ ty ∧ best.of u = some p := by
  simp only [otherTrees, List.mem_filterMap, List.mem_filter, bne_iff_ne]
  exact exists_congr fun u => by cases u <;> simp

/-- A tree's segments carry the classes seen so far, and its total is their cost. -/
structure TreeFits (t : Nat) (classes : List CharClass) (p : Tree) : Prop where
  total : p.total = segmentsCost t p.segments
  carries : Carries classes (segmentTypes p.segments.reverse)

/-- The invariant of R279 after the spans of some classes: every present tree fits them and ends in its own type; and the
tree of type B, which any byte allows, is present once there is a span. -/
structure BestFits (t : Nat) (classes : List CharClass) (best : Best) : Prop where
  fits : ∀ ty p, best.of ty = some p → p.tailType = ty ∧ TreeFits t classes p
  octets : best.of .B = none → classes = []

/-- The same-type tail made longer fits. -/
theorem extendTree_fits {t n : Nat} {classes : List CharClass} {best : Best} {c ty : CharClass} {p : Tree}
    (hb : BestFits t classes best) (ha : allowed c ty = true) (h : extendTree best ty n = some p) :
    p.tailType = ty ∧ TreeFits t (classes ++ List.replicate n c) p := by
  obtain ⟨p', hp', rfl⟩ := Option.map_eq_some_iff.mp h
  obtain ⟨rfl, htotal, hcarries⟩ := hb.fits ty p' hp'
  refine ⟨rfl, ?_, ?_⟩
  · simp only [Tree.segments, segmentsCost_cons] at htotal ⊢
    omega
  · have := hcarries.append_replicate ha n
    simpa [Tree.segments] using this

/-- A new segment after another tree, or the first of all, fits. -/
theorem branchTree_fits {t n : Nat} {classes : List CharClass} {best : Best} {c ty : CharClass} {p : Tree}
    (hb : BestFits t classes best) (ha : allowed c ty = true) (h : branchTree best ty n t = some p) :
    p.tailType = ty ∧ TreeFits t (classes ++ List.replicate n c) p := by
  rw [branchTree] at h
  obtain ⟨hnil, hleast⟩ | ⟨q, hq, hleast⟩ := leastTree_cases (otherTrees best ty)
  · rw [hleast] at h
    obtain ⟨hty, hp⟩ := Option.ite_none_right_eq_some.mp h
    obtain rfl := Option.some.inj hp
    have hother : ∀ u, u ≠ ty → best.of u = none := fun u hu =>
      Option.eq_none_iff_forall_ne_some.mpr fun q hq => by simpa [hnil] using mem_otherTrees.mpr ⟨u, hu, hq⟩
    have hclasses : classes = [] := hb.octets (by cases ty <;> simp_all)
    subst hclasses
    exact ⟨rfl, by simp [Tree.segments], by simpa [Tree.segments] using Carries.append_replicate .nil ha n⟩
  · obtain ⟨u, -, hu⟩ := mem_otherTrees.mp hq
    obtain ⟨-, htotal, hcarries⟩ := hb.fits u q hu
    obtain rfl := Option.some.inj (by simpa only [hleast] using h)
    refine ⟨rfl, ?_, ?_⟩
    · rw [show Tree.segments ⟨_, ty, n, q.segments⟩ = ⟨ty, n⟩ :: q.segments from rfl, segmentsCost_cons, htotal]
      ring
    · have := hcarries.append_replicate ha n
      simpa [Tree.segments] using this

/-- The next tree of a type is its extended or its branched one. -/
theorem nextTree_cases {best : Best} {t n : Nat} {c ty : CharClass} {p : Tree} (h : nextTree best t c n ty = some p) :
    allowed c ty = true ∧ (extendTree best ty n = some p ∨ branchTree best ty n t = some p) := by
  unfold nextTree at h
  split at h
  next ha =>
    refine ⟨ha, ?_⟩
    split at h
    next e b he hbr =>
      split_ifs at h
      · exact .inl (he.trans h)
      · exact .inr (hbr.trans h)
    next e he hbr => exact .inl (he.trans h)
    next he => exact .inr h
  next => cases h

/-- A span leaves a tree of type B. -/
theorem nextTree_octets_ne_none (best : Best) (t n : Nat) (c : CharClass) : nextTree best t c n .B ≠ none := by
  have ha : allowed c .B = true := by cases c <;> rfl
  rw [nextTree, if_pos ha]
  split
  next => split_ifs <;> simp
  next => simp
  next hext =>
    have hb : best.of .B = none := by simpa [extendTree] using hext
    rw [branchTree]
    split <;> simp [hb]

theorem nextBest_of (t : Nat) (best : Best) (sp : CharClass × Nat) (ty : CharClass) :
    (nextBest t best sp).of ty = nextTree best t sp.1 sp.2 ty := by cases ty <;> rfl

/-- One span keeps the invariant. -/
theorem BestFits.afterSpan {t : Nat} {classes : List CharClass} {best : Best} (hb : BestFits t classes best)
    (sp : CharClass × Nat) : BestFits t (classes ++ List.replicate sp.2 sp.1) (nextBest t best sp) where
  fits ty p h := by
    rw [nextBest_of] at h
    obtain ⟨ha, hext | hbr⟩ := nextTree_cases h
    · exact extendTree_fits hb ha hext
    · exact branchTree_fits hb ha hbr
  octets h := absurd (nextBest_of t best sp .B ▸ h) (nextTree_octets_ne_none best t sp.2 sp.1)

/-- All spans keep the invariant. -/
theorem BestFits.afterSpans {t : Nat} {classes : List CharClass} {best : Best} (hb : BestFits t classes best)
    (sps : List (CharClass × Nat)) : BestFits t (classes ++ spanClasses sps) (sps.foldl (nextBest t) best) := by
  induction sps generalizing classes best with
  | nil => simpa [spanClasses] using hb
  | cons sp sps ih => simpa [spanClasses] using ih (hb.afterSpan sp)

/-- The trees of a payload fit its classes. -/
theorem bestTrees_fit (bytes : List Byte) (t : Nat) : BestFits t (bytes.map classOf) (bestTrees bytes t) := by
  have hnone : BestFits t [] ⟨none, none, none⟩ :=
    { fits := fun ty p h => by cases ty <;> cases h
      octets := fun _ => rfl }
  simpa [spanClasses_spans, bestTrees] using hnone.afterSpans (spans bytes)

/-! The segmentation. -/

/-- Mode Auto (R279 to R281). -/
theorem autoSegments_fit (bytes : List Byte) (t : Nat) :
    Covers (autoSegments bytes t).2 bytes ∧ (autoSegments bytes t).1 = segmentsCost t (autoSegments bytes t).2 := by
  have hb := bestTrees_fit bytes t
  rw [autoSegments]
  obtain ⟨hnil, hleast⟩ | ⟨p, hp, hleast⟩ := leastTree_cases ([CharClass.N, .A, .B].filterMap (bestTrees bytes t).of)
  · have hnone : (bestTrees bytes t).of .B = none := List.forall_none_of_filterMap_eq_nil hnil .B (by simp)
    rw [hleast]
    exact ⟨List.map_eq_nil_iff.mp (hb.octets hnone), rfl⟩
  · obtain ⟨ty, -, hty⟩ := List.mem_filterMap.mp hp
    obtain ⟨-, htotal, hcarries⟩ := hb.fits ty p hty
    rw [hleast]
    exact ⟨covers_of_carries hcarries, by simpa using htotal⟩

/-- A fixed mode, over bytes its type carries (R283). -/
theorem fixedSegments_fit {ty : CharClass} {bytes : List Byte} (h : ∀ b ∈ bytes, allowed (classOf b) ty = true) (t : Nat) :
    Covers (fixedSegments ty bytes t).2 bytes ∧
      (fixedSegments ty bytes t).1 = segmentsCost t (fixedSegments ty bytes t).2 := by
  rw [fixedSegments]
  split_ifs with hnil
  · exact ⟨hnil, rfl⟩
  · exact ⟨⟨le_rfl, by simpa using h, by simp [Covers]⟩, by simp⟩

/-- The segments of a payload without unfit bytes cover it, and the total is their cost (R278). -/
theorem segmentation_fits {m : Mode} {bytes : List Byte} (h : firstUnfit m bytes = none) (t : Nat) :
    Covers (segmentation m bytes t).2 bytes ∧ (segmentation m bytes t).1 = segmentsCost t (segmentation m bytes t).2 := by
  cases m with
  | auto => exact autoSegments_fit bytes t
  | fixed ty => exact fixedSegments_fit (by simpa [firstUnfit] using h) t

end Sys2Proof.Proofs
end

section
/-! The reader of R284 undoes the writer: fields, characters, segments; and the bits of BITS are those that were packed. -/

namespace Sys2Proof.Proofs

open Sys2Proof Sys2Proof.Machine Sys2Proof.Claims

/-! Fields (R11). -/

/-- The last bit of a field is the lowest of the number. -/
theorem natBits_succ (w n : Nat) : natBits (w + 1) n = natBits w (n / 2) ++ [n.testBit 0] := by
  simp only [natBits, List.range_succ, List.map_append, List.map_cons, List.map_nil, Nat.add_sub_cancel, Nat.sub_self]
  congr 1
  refine List.map_congr_left fun i hi => ?_
  rw [Nat.testBit_div_two]
  congr 1
  have := List.mem_range.mp hi
  omega

theorem bitsValue_append_singleton (bits : List Bool) (b : Bool) :
    bitsValue (bits ++ [b]) = 2 * bitsValue bits + b.toNat := by simp [bitsValue]

/-- A field spells its number. -/
theorem bitsValue_natBits {w n : Nat} (h : n < 2 ^ w) : bitsValue (natBits w n) = n := by
  induction w generalizing n with
  | zero => simp_all [natBits, bitsValue]
  | succ w ih =>
    rw [natBits_succ, bitsValue_append_singleton, ih (by omega), Nat.testBit_zero]
    have : (decide (n % 2 = 1)).toNat = n % 2 := by
      obtain h | h := Nat.mod_two_eq_zero_or_one n <;> simp [h]
    omega

/-- Bits are the field of the number they spell. -/
theorem natBits_bitsValue (bits : List Bool) : natBits bits.length (bitsValue bits) = bits := by
  induction bits using List.reverseRecOn with
  | nil => rfl
  | append_singleton bits b ih =>
    have hd : (2 * bitsValue bits + b.toNat) / 2 = bitsValue bits := by have := Bool.toNat_lt b; omega
    have hb : (2 * bitsValue bits + b.toNat).testBit 0 = b := by cases b <;> simp [Nat.testBit_zero]
    rw [List.length_append, List.length_singleton, natBits_succ, bitsValue_append_singleton, hd, hb, ih]

theorem bitsValue_lt (bits : List Bool) : bitsValue bits < 2 ^ bits.length := by
  induction bits using List.reverseRecOn with
  | nil => simp [bitsValue]
  | append_singleton bits b ih =>
    rw [bitsValue_append_singleton, List.length_append, List.length_singleton, Nat.pow_succ]
    have := Bool.toNat_lt b
    omega

/-- The reader takes the number of a field as the writer does. -/
theorem fieldNumber_eq_bitsValue (bits : List Bool) : fieldNumber bits = bitsValue bits := rfl

/-- A field is read back. -/
theorem readField_natBits {w n : Nat} (h : n < 2 ^ w) (rest : List Bool) :
    readField w (natBits w n ++ rest) = some (n, rest) := by
  simp [readField, fieldNumber_eq_bitsValue, bitsValue_natBits h]

/-! Characters (R270 to R272, R284). -/

/-- The bytes Numeric carries are the digits. -/
theorem allowed_numeric {b : Byte} : allowed (classOf b) .N = true ↔ 0x30 ≤ b.toNat ∧ b.toNat ≤ 0x39 := by
  unfold classOf
  split_ifs with hd ha <;> simp [allowed, hd]

/-- A digit is the byte of its value. -/
theorem digit_eq_of_mod {b : Byte} (h : allowed (classOf b) .N = true) {n : Nat} (hn : n % 10 = digitValue b) :
    digit n = b := by
  obtain ⟨h1, h2⟩ := allowed_numeric.mp h
  rw [digit, hn, digitValue, Nat.add_sub_cancel' h1, BitVec.ofNat_toNat, BitVec.setWidth_eq]

theorem digitValue_lt {b : Byte} (h : allowed (classOf b) .N = true) : digitValue b < 10 := by
  obtain ⟨h1, h2⟩ := allowed_numeric.mp h
  unfold digitValue
  omega

/-- The string of R271 spells ALNUM_TABLE. -/
theorem alphabet_eq_alnumCodes : alphabet = alnumCodes := by decide

/-- The first 10 entries of ALNUM_TABLE are the digits. -/
theorem mem_alnumCodes_of_digit {n : Nat} (h : 0x30 ≤ n ∧ n ≤ 0x39) : n ∈ alnumCodes := by
  have : n ∈ (List.range 10).map (0x30 + ·) := List.mem_map.mpr ⟨n - 0x30, List.mem_range.mpr (by omega), by omega⟩
  simp only [alnumCodes, List.mem_append, this, true_or]

/-- Alphanumeric carries only bytes of ALNUM_TABLE. -/
theorem alnum?_isSome {b : Byte} (h : allowed (classOf b) .A = true) : (alnum? b).isSome = true := by
  unfold classOf at h
  split_ifs at h with hd ha
  · simpa [alnum?] using mem_alnumCodes_of_digit hd
  · exact ha
  · cases h

/-- A byte of the alphabet has a value below 45, whose letter it is. -/
theorem alnumValue_spec {b : Byte} (h : allowed (classOf b) .A = true) :
    alnumValue b < 45 ∧ letter (alnumValue b) = b := by
  obtain ⟨i, hi⟩ := Option.isSome_iff_exists.mp (alnum?_isSome h)
  obtain ⟨hlt, hcode, -⟩ := List.findIdx?_eq_some_iff_getElem.mp hi
  have hcode : alnumCodes[i] = b.toNat := by simpa using hcode
  have hv : alnumValue b = i := by simp [alnumValue, hi]
  refine ⟨by rw [hv]; exact hlt, ?_⟩
  rw [hv, letter, alphabet_eq_alnumCodes, List.getD_eq_getElem _ _ hlt, hcode, BitVec.ofNat_toNat, BitVec.setWidth_eq]

/-- Digits are read back. -/
theorem readDigits_numericBits {bytes : List Byte} (h : ∀ b ∈ bytes, allowed (classOf b) .N = true) (rest : List Bool) :
    readDigits bytes.length (numericBits bytes ++ rest) = some (bytes, rest) := by
  induction bytes using numericBits.induct with
  | case1 a b c bytes ih =>
    obtain ⟨ha, hb, hc, htail⟩ : _ ∧ _ ∧ _ ∧ _ := by simpa only [List.forall_mem_cons] using h
    have la := digitValue_lt ha
    have lb := digitValue_lt hb
    have lc := digitValue_lt hc
    simp only [List.length_cons, numericBits, List.append_assoc, readDigits]
    rw [readField_natBits (by omega)]
    simp [ih htail, digit_eq_of_mod ha (show (100 * digitValue a + 10 * digitValue b + digitValue c) / 100 % 10 = _ by omega),
      digit_eq_of_mod hb (show (100 * digitValue a + 10 * digitValue b + digitValue c) / 10 % 10 = _ by omega),
      digit_eq_of_mod hc (show (100 * digitValue a + 10 * digitValue b + digitValue c) % 10 = _ by omega)]
  | case2 a b =>
    obtain ⟨ha, hb, -⟩ : _ ∧ _ ∧ _ := by simpa only [List.forall_mem_cons] using h
    have la := digitValue_lt ha
    have lb := digitValue_lt hb
    simp only [List.length_cons, List.length_nil, numericBits, readDigits]
    rw [readField_natBits (by omega)]
    simp [digit_eq_of_mod ha (show (10 * digitValue a + digitValue b) / 10 % 10 = _ by omega),
      digit_eq_of_mod hb (show (10 * digitValue a + digitValue b) % 10 = _ by omega)]
  | case3 a =>
    have ha := h a (by simp)
    have la := digitValue_lt ha
    simp only [List.length_cons, List.length_nil, numericBits, readDigits]
    rw [readField_natBits (by omega)]
    simp [digit_eq_of_mod ha (show digitValue a % 10 = _ by omega)]
  | case4 => rfl

/-- Letters are read back. -/
theorem readLetters_alnumBits {bytes : List Byte} (h : ∀ b ∈ bytes, allowed (classOf b) .A = true) (rest : List Bool) :
    readLetters bytes.length (alnumBits bytes ++ rest) = some (bytes, rest) := by
  induction bytes using alnumBits.induct with
  | case1 a b bytes ih =>
    obtain ⟨ha, hb, htail⟩ : _ ∧ _ ∧ _ := by simpa only [List.forall_mem_cons] using h
    obtain ⟨la, ea⟩ := alnumValue_spec ha
    obtain ⟨lb, eb⟩ := alnumValue_spec hb
    have hdiv : (45 * alnumValue a + alnumValue b) / 45 = alnumValue a := by omega
    have hmod : (45 * alnumValue a + alnumValue b) % 45 = alnumValue b := by omega
    simp only [List.length_cons, alnumBits, List.append_assoc, readLetters]
    rw [readField_natBits (by omega)]
    simp [ih htail, hdiv, hmod, ea, eb]
  | case2 a =>
    obtain ⟨la, ea⟩ := alnumValue_spec (h a (by simp))
    simp only [List.length_cons, List.length_nil, alnumBits, readLetters]
    rw [readField_natBits (by omega)]
    simp [ea]
  | case3 => rfl

/-- Bytes are read back. -/
theorem readOctets_natBits (bytes : List Byte) (rest : List Bool) :
    readOctets bytes.length ((bytes.flatMap fun b => natBits 8 b.toNat) ++ rest) = some (bytes, rest) := by
  induction bytes with
  | nil => rfl
  | cons b bytes ih =>
    simp only [List.length_cons, List.flatMap_cons, List.append_assoc, readOctets]
    rw [readField_natBits b.isLt]
    simp [ih]

/-! Segments (R274 to R276, R284). -/

theorem lengthWidth_modeInd (v : Nat) (ty : CharClass) : lengthWidth v (modeInd ty) = countWidth ty (tier v) := by
  cases ty <;> simp only [lengthWidth, modeInd, tier] <;> split_ifs <;> rfl

/-- A segment whose length fits its field is read back. -/
theorem readSegment_segmentBits {v : Nat} {g : Segment} {bytes : List Byte} (hlen : bytes.length = g.len)
    (hfit : g.len < 2 ^ countWidth g.type (tier v)) (h : ∀ b ∈ bytes, allowed (classOf b) g.type = true) (rest : List Bool) :
    readSegment v (segmentBits (tier v) g bytes ++ rest) = some (bytes, rest) := by
  obtain ⟨ty, len⟩ := g
  obtain rfl : bytes.length = len := hlen
  simp only [segmentBits, List.append_assoc, readSegment]
  rw [readField_natBits (by cases ty <;> decide), Option.bind_some, lengthWidth_modeInd, readField_natBits hfit, Option.bind_some]
  cases ty with
  | N => exact readDigits_numericBits h rest
  | A => exact readLetters_alnumBits h rest
  | B => exact readOctets_natBits bytes rest

/-- The segments of a payload they cover are read back. -/
theorem readSegments_segmentsBits {v : Nat} {segs : List Segment} {bytes : List Byte} (hcov : Covers segs bytes)
    (hfit : ∀ g ∈ segs, g.len < 2 ^ countWidth g.type (tier v)) (rest : List Bool) :
    readSegments v segs.length (segmentsBits (tier v) segs bytes ++ rest) = some (bytes, rest) := by
  induction segs generalizing bytes with
  | nil => rw [show bytes = [] from hcov]; rfl
  | cons g segs ih =>
    obtain ⟨hlen, hallowed, hcov⟩ := hcov
    obtain ⟨hg, hsegs⟩ := List.forall_mem_cons.mp hfit
    simp only [List.length_cons, segmentsBits, List.append_assoc, readSegments]
    rw [readSegment_segmentBits (List.length_take_of_le hlen) hg hallowed]
    simp [ih hcov hsegs]

/-- The bits of segments that cover a payload are their cost (R277). -/
theorem segmentsBits_length {segs : List Segment} {bytes : List Byte} (hcov : Covers segs bytes) (t : Nat) :
    (segmentsBits t segs bytes).length = segmentsCost t segs := by
  induction segs generalizing bytes with
  | nil => rfl
  | cons g segs ih =>
    obtain ⟨hlen, -, hcov⟩ := hcov
    simp [segmentsBits, segmentBits_length, List.length_take_of_le hlen, ih hcov]

/-! Bytes as bits, and the bits of BITS (R11, R288). -/

/-- A byte in stream order is its number in a field of 8. -/
theorem octet_eq_natBits (b : Byte) : octet b = natBits 8 b.toNat := rfl

@[simp] theorem octet_length (b : Byte) : (octet b).length = 8 := by simp [octet]

/-- Whole bytes are unpacked to the bits they were packed from. -/
theorem octets_packBytes {bits : List Bool} (h : bits.length % 8 = 0) : (packBytes bits).flatMap octet = bits := by
  induction bits using packBytes.induct with
  | case1 b7 b6 b5 b4 b3 b2 b1 b0 rest ih =>
    have hlt : bitsValue [b7, b6, b5, b4, b3, b2, b1, b0] < 2 ^ 8 := bitsValue_lt _
    have hbyte : octet (BitVec.ofNat 8 (bitsValue [b7, b6, b5, b4, b3, b2, b1, b0])) = [b7, b6, b5, b4, b3, b2, b1, b0] := by
      rw [octet_eq_natBits, BitVec.toNat_ofNat, Nat.mod_eq_of_lt hlt]
      exact natBits_bitsValue [b7, b6, b5, b4, b3, b2, b1, b0]
    have hrest : rest.length % 8 = 0 := by simp only [List.length_cons] at h; omega
    rw [packBytes, List.flatMap_cons, hbyte, ih hrest]
    rfl
  | case2 bits hshort =>
    have hpack : packBytes bits = [] := packBytes.eq_2 bits hshort
    have hlen := packBytes_length bits
    rw [hpack, List.length_nil] at hlen
    rw [hpack, List.eq_nil_of_length_eq_zero (show bits.length = 0 by omega), List.flatMap_nil]

/-- The bits of consecutive codewords are the bits of each in turn. -/
theorem bitAt_range (s : State) (a k : Nat) : (List.range (8 * k)).map (bitAt s a) = (bytesAt s a k).flatMap octet := by
  induction k with
  | zero => rfl
  | succ k ih =>
    have hlast : (List.range 8).map (bitAt s a ∘ (8 * k + ·)) = octet (readByte s (a + k)) := by
      refine List.map_congr_left fun i hi => ?_
      have hi := List.mem_range.mp hi
      simp only [Function.comp, bitAt]
      rw [show (8 * k + i) / 8 = k by omega, show (8 * k + i) % 8 = i by omega]
    rw [Nat.mul_succ, List.range_add, List.map_append, ih, List.map_map, hlast, bytesAt, bytesAt, List.range_succ]
    simp

end Sys2Proof.Proofs
end

section
/-! What ENC and ENCV leave in BITS, read back (R284, R287, R288). -/

namespace Sys2Proof.Proofs

open Sys2Proof Sys2Proof.Machine Sys2Proof.Claims

/-! The capacity bounds every length field (R276, R286). -/

/-- The largest data capacity of the versions of a tier, in bytes. -/
def tierCapacity : Nat → Nat
  | 0 => 232
  | 1 => 1370
  | _ => 2956

theorem dataTotal_le_tierCapacity {v : Nat} (hv : v ≤ 40) (l : Level) :
    dataTotal (blockRow v l) ≤ tierCapacity (tier v) := by
  have h : ∀ v ∈ List.range 41, ∀ l ∈ [Level.L, .M, .Q, .H], dataTotal (blockRow v l) ≤ tierCapacity (tier v) := by
    decide +kernel
  exact h v (List.mem_range.mpr (by omega)) l (by cases l <;> simp)

theorem tier_lt_three (v : Nat) : tier v < 3 := by
  unfold tier
  split_ifs <;> omega

theorem tier_eq_zero {v : Nat} (h : v ≤ 9) : tier v = 0 := if_pos h

theorem tier_eq_one {v : Nat} (h1 : 10 ≤ v) (h2 : v ≤ 26) : tier v = 1 := by
  rw [tier, if_neg (by omega), if_pos h2]

theorem tier_eq_two {v : Nat} (h : 27 ≤ v) : tier v = 2 := by
  rw [tier, if_neg (by omega), if_neg (by omega)]

/-- A segment whose cost is within the largest capacity of a tier has a length its field can hold: by the whole groups of
its characters alone, a longer one would cost more. -/
theorem len_lt_of_cost_le_tierCapacity {t n : Nat} (ht : t < 3) {ty : CharClass}
    (h : hdr ty t + segbits ty n ≤ 8 * tierCapacity t) : n < 2 ^ countWidth ty t := by
  replace h : segbits ty n ≤ 8 * tierCapacity t := (Nat.le_add_left _ _).trans h
  cases ty with
  | N =>
    have hgroups : 10 * (n / 3) ≤ segbits .N n := Nat.le_add_right _ _
    interval_cases t <;> simp only [countWidth, tierCapacity] at * <;> omega
  | A =>
    have hpairs : 11 * (n / 2) ≤ segbits .A n := Nat.le_add_right _ _
    interval_cases t <;> simp only [countWidth, tierCapacity] at * <;> omega
  | B =>
    have hoctets : segbits .B n = 8 * n := rfl
    interval_cases t <;> simp only [countWidth, tierCapacity] at * <;> omega

/-- A segment whose cost is within the capacity of the version has a length its field can hold. -/
theorem len_lt_of_cost_le {v n : Nat} (hv : v ≤ 40) {l : Level} {ty : CharClass}
    (h : hdr ty (tier v) + segbits ty n ≤ capBits v l) : n < 2 ^ countWidth ty (tier v) :=
  len_lt_of_cost_le_tierCapacity (tier_lt_three v) (h.trans (Nat.mul_le_mul_left 8 (dataTotal_le_tierCapacity hv l)))

theorem segment_cost_le {segs : List Segment} {g : Segment} (hg : g ∈ segs) (t : Nat) :
    hdr g.type t + segbits g.type g.len ≤ segmentsCost t segs := by
  induction segs with
  | nil => cases hg
  | cons g' segs ih =>
    rw [segmentsCost_cons]
    obtain rfl | hg := List.mem_cons.mp hg
    · omega
    · have := ih hg
      omega

theorem length_le_segmentsCost (t : Nat) (segs : List Segment) : segs.length ≤ segmentsCost t segs := by
  induction segs with
  | nil => rfl
  | cons g segs ih =>
    rw [segmentsCost_cons, List.length_cons, hdr]
    omega

/-! The fill (R287). -/

/-- The pad bytes of ISO, 0xEC and 0x11 in turn. -/
def padBytes (k : Nat) : List Byte := (List.range k).map fun i => if i % 2 = 0 then 0xEC else 0x11

theorem padBytes_octets (k : Nat) : (padBytes k).flatMap octet =
    (List.range k).flatMap fun i => natBits 8 (if i % 2 = 0 then 0xEC else 0x11) := by
  rw [padBytes, List.flatMap_map]
  refine List.flatMap_congr fun i _ => ?_
  rw [octet_eq_natBits]
  split_ifs <;> rfl

theorem padBytes_octets_length (k : Nat) : ((padBytes k).flatMap octet).length = 8 * k := by
  simp [padBytes, List.length_flatMap, Function.comp_def, Nat.mul_comm]

/-- The zeros after the terminator end on a whole byte. -/
theorem add_align_mod_eight (n : Nat) : (n + (8 - n % 8) % 8) % 8 = 0 := by omega

/-- The fill written is the fill R287 describes. -/
theorem fillIs_fillBits (pad : PadFill) {cap total : Nat} (hcap : cap % 8 = 0) (h : total ≤ cap) :
    FillIs pad total cap (fillBits pad cap total) := by
  cases pad with
  | zero => exact ⟨by simp [fillBits, h], fun b hb => List.eq_of_mem_replicate hb⟩
  | iso =>
    set ended := total + min 4 (cap - total) with hended
    set align := (8 - ended % 8) % 8 with halign
    have hstart : (ended + align) % 8 = 0 := add_align_mod_eight ended
    have hbits : fillBits .iso cap total = List.replicate (min 4 (cap - total) + align) false
        ++ (padBytes ((cap - (ended + align)) / 8)).flatMap octet := by
      rw [padBytes_octets, show min 4 (cap - total) + align = ended + align - total by omega]
      rfl
    refine ⟨?_, align, padBytes ((cap - (ended + align)) / 8), hbits, Nat.mod_lt _ (by decide), hstart, fun j hj => ?_⟩
    · rw [hbits, List.length_append, List.length_replicate, padBytes_octets_length]
      omega
    · rw [List.getD_eq_getElem _ _ hj]
      simp [padBytes]

/-- A register holds a number that fits it. -/
theorem toNat_ofNat_of_lt {w n : Nat} (h : n < 2 ^ w) : (BitVec.ofNat w n).toNat = n := by
  rw [BitVec.toNat_ofNat, Nat.mod_eq_of_lt h]

/-! The state ENC and ENCV leave (R288). -/

/-- `t` is what ENC and ENCV leave for the payload of `s` at some version and level whose capacity holds the segmentation. -/
def Placed (pad : PadFill) (s t : State) : Prop :=
  ∃ (m : Mode) (l : Level) (v : Nat), v ≤ 40 ∧ firstUnfit m (payload s) = none ∧
    (segmentation m (payload s) (tier v)).1 ≤ capBits v l ∧
    t = placeStream pad v l (payload s) (segmentation m (payload s) (tier v)).1 (segmentation m (payload s) (tier v)).2 s

theorem payloadOf_eq_payload (s : State) : payloadOf s = payload s := rfl

/-- A recorded fault leaves STATUS other than 0. -/
theorem raise_status_ne (op : Byte) (code : FaultCode) (info : Nat) (s : State) :
    (raise op code info s).status ≠ ⟨0, 0, 0⟩ := by
  have hcode : code.number ≠ 0 := by cases code <;> decide
  exact fun h => hcode (congrArg Status.fault h)

/-- The versions of a tier that fit are tried under one segmentation (R286). -/
theorem tryTier_some {l : Level} {m : Mode} {bytes : List Byte} {first last v total : Nat} {segs : List Segment}
    (h : tryTier l m bytes first last = some (v, total, segs)) :
    first ≤ v ∧ v ≤ last ∧ total ≤ capBits v l ∧ segmentation m bytes (tier first) = (total, segs) := by
  obtain ⟨w, hw, hres⟩ := Option.map_eq_some_iff.mp h
  obtain ⟨rfl, hseg⟩ := Prod.mk.inj hres
  have htotal : (segmentation m bytes (tier first)).1 = total := congrArg Prod.fst hseg
  have hfit := List.find?_some hw
  obtain ⟨i, hi, rfl⟩ := List.mem_map.mp (List.mem_of_find?_eq_some hw)
  have := List.mem_range.mp hi
  exact ⟨by omega, by omega, by simpa [htotal] using hfit, hseg⟩

/-- The version selected is in 1 to 40, and its own tier's segmentation is within its capacity (R286). -/
theorem selectVersion_some {l : Level} {m : Mode} {bytes : List Byte} {v total : Nat} {segs : List Segment}
    (h : selectVersion l m bytes = some (v, total, segs)) :
    1 ≤ v ∧ v ≤ 40 ∧ total ≤ capBits v l ∧ segmentation m bytes (tier v) = (total, segs) := by
  have htry : tryTier l m bytes 1 9 = some (v, total, segs) ∨ tryTier l m bytes 10 26 = some (v, total, segs) ∨
      tryTier l m bytes 27 40 = some (v, total, segs) := by
    simp only [selectVersion, Option.orElse_eq_some] at h
    tauto
  obtain ht | ht | ht := htry <;> obtain ⟨h1, h2, hle, hseg⟩ := tryTier_some ht
  · exact ⟨h1, by omega, hle, by rwa [tier_eq_zero h2]⟩
  · exact ⟨by omega, by omega, hle, by rwa [tier_eq_one h1 h2]⟩
  · exact ⟨by omega, h2, hle, by rwa [tier_eq_two h1]⟩

theorem placed_of_encFilling {pad : PadFill} {e m : Nat} {s t : State} (h : encFilling pad e m s = .next t)
    (ht : t.status = ⟨0, 0, 0⟩) : Placed pad s t := by
  obtain ⟨code, info, -, rfl⟩ | ⟨l, md, v, total, segs, -, -, -, hunfit, hselect, rfl⟩ := encFilling_next h
  · exact absurd ht (raise_status_ne _ _ _ _)
  · obtain ⟨-, hv, hle, hseg⟩ := selectVersion_some hselect
    rw [payloadOf_eq_payload] at *
    exact ⟨md, l, v, hv, hunfit, by rwa [hseg], by rw [hseg]⟩

theorem placed_of_encvFilling {pad : PadFill} {v e m : Nat} {s t : State} (h : encvFilling pad v e m s = .next t)
    (ht : t.status = ⟨0, 0, 0⟩) : Placed pad s t := by
  obtain ⟨code, info, -, rfl⟩ | ⟨l, md, -, hv, -, -, -, hunfit, hle, rfl⟩ := encvFilling_next h
  · exact absurd ht (raise_status_ne _ _ _ _)
  · exact ⟨md, l, v, hv, hunfit, hle, rfl⟩

/-- The bits of BITS are the final stream, when it fills the capacity. -/
theorem bitStream_placeStream {pad : PadFill} {v : Nat} {l : Level} {bytes : List Byte} {total : Nat} {segs : List Segment}
    {s : State} (h : (finalStream pad v l bytes total segs).length = capBits v l) :
    bitStream (placeStream pad v l bytes total segs s) = finalStream pad v l bytes total segs := by
  set bits := finalStream pad v l bytes total segs with hbits
  have hbytes : bytesAt (placeStream pad v l bytes total segs s) 0x2000 (dataTotal (blockRow v l)) = packBytes bits := by
    refine List.ext_getElem (by simp [bytesAt, h, capBits]) fun i hi hi' => ?_
    have hlt : i < bits.length / 8 := by simpa using hi'
    simp only [bytesAt, List.getElem_map, List.getElem_range]
    rw [readByte_placeStream, ← hbits, if_pos (by omega), Nat.add_sub_cancel_left, List.getD_eq_getElem _ _ hi']
  have hblen : (placeStream pad v l bytes total segs s).blen.toNat = 8 * dataTotal (blockRow v l) := by
    obtain ⟨hbound, -⟩ := blockRow_bounds v l
    rw [placeStream_blen, capBits, toNat_ofNat_of_lt (by omega)]
  rw [bitStream, hblen, bitAt_range, hbytes, octets_packBytes (by rw [h, capBits]; omega)]

/-- The stream placed reads back to the payload and leaves the fill (R284, R287, R288). -/
theorem Placed.readsBack {pad : PadFill} {s t : State} (h : Placed pad s t) :
    ∃ fill : List Bool, FillIs pad t.r1.toNat t.blen.toNat fill ∧
      readSegments t.r0.toNat t.r2.toNat (bitStream t) = some (payload s, fill) := by
  obtain ⟨m, l, v, hv, hunfit, hle, rfl⟩ := h
  obtain ⟨hcov, htotal⟩ := segmentation_fits hunfit (tier v)
  generalize segmentation m (payload s) (tier v) = seg at *
  obtain ⟨total, segs⟩ := seg
  dsimp only at *
  have hcap : capBits v l ≤ 8 * 2956 := Nat.mul_le_mul_left 8 (blockRow_bounds v l).1
  have hcap8 : capBits v l % 8 = 0 := Nat.mul_mod_right 8 _
  have hcount : segs.length ≤ total := htotal ▸ length_le_segmentsCost (tier v) segs
  have hfit : ∀ g ∈ segs, g.len < 2 ^ countWidth g.type (tier v) := fun g hg =>
    len_lt_of_cost_le hv ((segment_cost_le hg (tier v)).trans (htotal ▸ hle))
  have hfill := fillIs_fillBits pad hcap8 hle
  have hlen : (finalStream pad v l (payload s) total segs).length = capBits v l := by
    rw [finalStream, List.length_append, segmentsBits_length hcov, ← htotal, hfill.1]
  refine ⟨fillBits pad (capBits v l) total, ?_, ?_⟩
  · rwa [placeStream_r1, placeStream_blen, toNat_ofNat_of_lt (by omega), toNat_ofNat_of_lt (by omega)]
  · rw [bitStream_placeStream hlen, placeStream_r0, placeStream_r2, toNat_ofNat_of_lt (by omega),
      toNat_ofNat_of_lt (by omega)]
    exact readSegments_segmentsBits hcov hfit _

/-- A command that completes leaves a stream placed; this unit's PAD_FILL is ZERO (log entry 6). -/
theorem placed_of_exec {i : Instr} {s t : State}
    (hi : (∃ ecLevel mode, i = .enc ecLevel mode) ∨ (∃ version ecLevel mode, i = .encv version ecLevel mode))
    (h : exec i s = .next t) (ht : t.status = ⟨0, 0, 0⟩) : Placed .zero s t := by
  obtain ⟨e, m, rfl⟩ | ⟨v, e, m, rfl⟩ := hi
  · exact placed_of_encFilling h ht
  · exact placed_of_encvFilling h ht

/-- Settles O46: the segments of the placed stream are read back one by one, their lengths within their fields because
their cost is within the capacity. -/
theorem encodedStreamReadsBack : Obligations.EncodedStreamReadsBack := by
  unfold Obligations.EncodedStreamReadsBack
  refine ⟨fun i s t hi _ h ht => ?_, fun pad s t _ ht h => ?_⟩
  · obtain ⟨fill, ⟨hlen, hzero⟩, hread⟩ := (placed_of_exec hi h ht).readsBack
    exact ⟨fill.length, hlen, by rw [hread, ← List.eq_replicate_length.mpr hzero]⟩
  · obtain ⟨e, m, h⟩ | ⟨v, e, m, h⟩ := h
    · exact (placed_of_encFilling h ht).readsBack
    · exact (placed_of_encvFilling h ht).readsBack

end Sys2Proof.Proofs
end

section
/-! What a command leaves: the shapes its next state can have. -/

namespace Sys2Proof.Proofs

open Sys2Proof Sys2Proof.Machine Sys2Proof.Claims

/-- The opcode byte of a packed word. -/
@[simp] theorem fieldOp_packFields (op a b c : Byte) : fieldOp (packFields op a b c) = op := by
  rw [fieldOp, packFields, BitVec.extractLsb'_append_eq_of_add_le (by decide), BitVec.extractLsb'_eq_self]

/-- What a command can leave in the unit: a recorded fault, or the outcome of one of the groups of commands that write the
same stores. Each says which commands it is of, and bounds what it stores by the buffer it goes to. -/
inductive Effect (i : Instr) (s : State) : State → Prop
  | raised {op : Byte} {code : FaultCode} {info : Nat} (hop : fieldOp (encode i) = op) (hcode : code ≠ .assert) :
      Effect i s (raise op code info s)
  | idle (hi : i = .nop) : Effect i s s
  | cleared (hi : i = .clrf) : Effect i s (clearFault s)
  | result {n : Nat} (hi : writesR0 i = true) : Effect i s (setR0 n s)
  | results {n0 n1 n2 : Nat} (hi : writesR12 i = true) : Effect i s (setR012 n0 n1 n2 s)
  | row {c : Byte} {vs : List Byte} (hi : i = .gfrow c) (hlen : vs.length ≤ Buffer.row.size) : Effect i s (writeBuf .row 0 vs s)
  | bytes {n : Nat} {b : Buffer} {vs : List Byte} (hi : writesR0 i = true) (hlen : vs.length ≤ b.size) :
      Effect i s (setR0 n (writeBuf b 0 vs s))
  | layout {v : Nat} {l : Level} (hi : isLayout i = true) (hv : 1 ≤ v) (hv' : v ≤ Config.maxVersion) :
      Effect i s (selectLayout v l s)
  | mask {m : Nat} (hi : isSetmask i = true) : Effect i s (selectMask m s)
  | stream {v total : Nat} {l : Level} {payload : List Byte} {segs : List Segment} (hi : writesBlen i = true)
      (hlen : (finalStream padFill v l payload total segs).length / 8 ≤ Buffer.bits.size) :
      Effect i s (placeStream padFill v l payload total segs s)
  | solution {p : Template} {sol : Solution} {o : Nat} {vs : List Byte} (hi : isSolveblk i = true)
      (hecc : p.eccCw ≤ Buffer.ecc.size) (hout : p.md.length ≤ Buffer.out.size) (hdata : o + vs.length ≤ Buffer.data.size) :
      Effect i s (placeSolution p sol (writeBuf .data o vs s))
  | symbol {data vs : List Byte} (hi : writesGrid i = true) (hlay : s.cfg.layv = true) (hmask : s.cfg.mskv = true)
      (hdata : vs.length ≤ Buffer.data.size) : Effect i s (assembleSymbol data (writeBuf .data 0 vs s))

/-- The final stream fills the capacity. -/
theorem finalStream_length (pad : PadFill) {v : Nat} (l : Level) {m : Mode} {bytes : List Byte}
    (hunfit : firstUnfit m bytes = none) (hle : (segmentation m bytes (tier v)).1 ≤ capBits v l) :
    (finalStream pad v l bytes (segmentation m bytes (tier v)).1 (segmentation m bytes (tier v)).2).length = capBits v l := by
  obtain ⟨hcov, htotal⟩ := segmentation_fits hunfit (tier v)
  obtain ⟨hfill, -⟩ := fillIs_fillBits pad (Nat.mul_mod_right 8 (dataTotal (blockRow v l))) hle
  rw [finalStream, List.length_append, segmentsBits_length hcov, ← htotal]
  exact hfill

theorem capBits_div_le (v : Nat) (l : Level) : capBits v l / 8 ≤ Buffer.bits.size := by
  obtain ⟨hdata, -⟩ := blockRow_bounds v l
  simp only [capBits, Buffer.size]
  omega

/-- The stream ENC and ENCV place, for a segmentation within the version's capacity. -/
theorem Effect.of_stream {i : Instr} {s : State} {v : Nat} {l : Level} {m : Mode} (hi : writesBlen i = true)
    (hunfit : firstUnfit m (payloadOf s) = none) (hle : (segmentation m (payloadOf s) (tier v)).1 ≤ capBits v l) :
    Effect i s (placeStream padFill v l (payloadOf s) (segmentation m (payloadOf s) (tier v)).1
      (segmentation m (payloadOf s) (tier v)).2 s) := by
  refine .stream hi ?_
  rw [finalStream_length padFill l hunfit hle]
  exact capBits_div_le v l

theorem effect_of_enc {e m : Nat} {s t : State} (h : execEnc e m s = .next t) : Effect (.enc e m) s t := by
  obtain ⟨code, info, hcode, rfl⟩ | ⟨l, md, v, total, segs, -, -, -, hunfit, hselect, rfl⟩ := execEnc_next h
  · exact .raised (fieldOp_packFields ..) hcode
  · obtain ⟨-, -, hle, hseg⟩ := selectVersion_some hselect
    have heffect := Effect.of_stream (i := .enc e m) (v := v) (l := l) rfl hunfit (by rwa [hseg])
    rwa [hseg] at heffect

theorem effect_of_encv {v e m : Nat} {s t : State} (h : execEncv v e m s = .next t) : Effect (.encv v e m) s t := by
  obtain ⟨code, info, hcode, rfl⟩ | ⟨l, md, -, -, -, -, -, hunfit, hle, rfl⟩ := execEncv_next h
  · exact .raised (fieldOp_packFields ..) hcode
  · exact .of_stream rfl hunfit hle

/-- No block is longer than one codeword more than the shorter ones (R192). -/
theorem dataLen_le (r : BlockRow) (k : Nat) : dataLen r k ≤ r.len1 + 1 := by
  unfold dataLen
  split_ifs <;> omega

/-- A length of the raw form (R322). -/
theorem rawLengthLegal_iff {b : Buffer} {n : Nat} : rawLengthLegal b n = true ↔ n % 8 = 0 ∧ 8 ≤ n ∧ n ≤ b.size := by
  simp [rawLengthLegal, and_assoc]

/-- In both forms the labels are as many as the length registers say, and these are bounded by the label buffers (raw) or by
the block's lengths (R322). -/
theorem effect_of_solveblk {k : Nat} {raw : Bool} {s t : State} (h : execSolveblk k raw s = .next t) :
    Effect (.solveblk k raw) s t := by
  unfold execSolveblk at h
  cases raw with
  | true =>
    obtain ⟨code, info, hcode, rfl⟩ | ⟨-, hlen0, hlen1, -, -, rfl⟩ := solveRaw_next h
    · exact .raised (fieldOp_packFields ..) hcode
    · obtain ⟨-, -, htd⟩ := rawLengthLegal_iff.mp hlen0
      obtain ⟨-, -, hte⟩ := rawLengthLegal_iff.mp hlen1
      simp only [Buffer.size] at htd hte
      refine .solution (o := 0) (vs := []) rfl ?_ ?_ ?_ <;> simp [rawTemplate, Buffer.size] <;> omega
  | false =>
    obtain ⟨code, info, hcode, rfl⟩ | ⟨-, -, hk, hlen0, hlen1, -, rfl⟩ := solveLayoutBlock_next h
    · exact .raised (fieldOp_packFields ..) hcode
    · obtain ⟨htotal, -, -, hecc, hblock⟩ := blockRow_bounds (curVersion s) s.cfg.ecl
      have hend := dataOff_add_dataLen_le (curRow s) hk
      have hlen := dataLen_le (curRow s) k
      simp only [← curRow.eq_def] at htotal hecc hblock
      refine .solution rfl ?_ ?_ ?_ <;> simp [blockTemplate, rawTemplate, dataLabels, Buffer.size] <;> omega

theorem effect_of_build {s t : State} (h : execBuild s = .next t) : Effect .build s t := by
  obtain ⟨code, info, hcode, rfl⟩ | ⟨hlay, hmask, -, rfl⟩ := execBuild_next h
  · exact .raised (fieldOp_packFields ..) hcode
  · obtain ⟨htotal, -⟩ := blockRow_bounds (curVersion s) s.cfg.ecl
    exact .symbol rfl hlay hmask (by rw [readBuf_length]; exact htotal.trans (by decide))

theorem effect_of_assemble {s t : State} (h : execAssemble s = .next t) : Effect .assemble s t := by
  obtain ⟨code, info, hcode, rfl⟩ | ⟨hlay, hmask, rfl⟩ := execAssemble_next h
  · exact .raised (fieldOp_packFields ..) hcode
  · exact .symbol (vs := []) rfl hlay hmask (by decide)

/-- What a command leaves is one of the effects, whatever the command and the state. -/
theorem effect_of_exec {i : Instr} {s t : State} (h : exec i s = .next t) : Effect i s t := by
  cases i with
  | nop => exact execNop_next h ▸ .idle rfl
  | clrf => exact execClrf_next h ▸ .cleared rfl
  | gfadd a b => exact execGfadd_next h ▸ .result rfl
  | gfmul a b => exact execGfmul_next h ▸ .result rfl
  | gfexp n => exact execGfexp_next h ▸ .result rfl
  | gflog a => exact execGflog_next h ▸ .result rfl
  | gfrow c => exact execGfrow_next h ▸ .row rfl (by simp [Buffer.size])
  | gfgen d =>
    obtain ⟨-, rfl⟩ | ⟨-, hd, rfl⟩ := execGfgen_next h
    · exact .raised (fieldOp_packFields ..) (by decide)
    · exact .bytes rfl (by rw [gfGen_length]; exact hd.trans (by decide))
  | rsenc len e =>
    obtain ⟨-, rfl⟩ | ⟨hs, rfl⟩ := execRsenc_next h
    · exact .raised (fieldOp_packFields ..) (by decide)
    · exact .bytes rfl (by rw [rs_length]; exact (rsSupported_iff.mp hs).2.1.trans (by decide))
  | rsbit b p e =>
    obtain ⟨-, rfl⟩ | ⟨-, -, rfl⟩ | ⟨-, hs, rfl⟩ := execRsbit_next h
    · exact .raised (fieldOp_packFields ..) (by decide)
    · exact .raised (fieldOp_packFields ..) (by decide)
    · exact .bytes rfl (by rw [sbc_length]; exact (rsSupported_iff.mp hs).2.1.trans (by decide))
  | layout v e =>
    obtain ⟨-, rfl⟩ | ⟨-, -, -, rfl⟩ | ⟨hv, hv', l, -, rfl⟩ := execLayout_next h
    · exact .raised (fieldOp_packFields ..) (by decide)
    · exact .raised (fieldOp_packFields ..) (by decide)
    · exact .layout rfl hv hv'
  | setmask m =>
    obtain ⟨-, rfl⟩ | ⟨-, rfl⟩ := execSetmask_next h
    · exact .raised (fieldOp_packFields ..) (by decide)
    · exact .mask rfl
  | cell x y =>
    obtain ⟨code, info, hcode, rfl⟩ | ⟨-, -, -, rfl⟩ := execCell_next h
    · exact .raised (fieldOp_packFields ..) hcode
    · exact .results rfl
  | maskbit x y =>
    obtain ⟨code, info, hcode, rfl⟩ | ⟨-, -, -, -, rfl⟩ := execMaskbit_next h
    · exact .raised (fieldOp_packFields ..) hcode
    · exact .result rfl
  | fmtinfo =>
    obtain ⟨code, info, hcode, rfl⟩ | ⟨-, -, rfl⟩ := execFmtinfo_next h
    · exact .raised (fieldOp_packFields ..) hcode
    · exact .result rfl
  | verinfo =>
    obtain ⟨code, info, hcode, rfl⟩ | ⟨-, rfl⟩ := execVerinfo_next h
    · exact .raised (fieldOp_packFields ..) hcode
    · exact .result rfl
  | blkinfo k =>
    obtain ⟨code, info, hcode, rfl⟩ | ⟨-, -, rfl⟩ := execBlkinfo_next h
    · exact .raised (fieldOp_packFields ..) hcode
    · exact .results rfl
  | capinfo =>
    obtain ⟨code, info, hcode, rfl⟩ | ⟨-, rfl⟩ := execCapinfo_next h
    · exact .raised (fieldOp_packFields ..) hcode
    · exact .results rfl
  | enc e m => exact effect_of_enc h
  | encv v e m => exact effect_of_encv h
  | solveblk k raw => exact effect_of_solveblk h
  | build => exact effect_of_build h
  | assemble => exact effect_of_assemble h
  | get x y =>
    obtain ⟨code, info, hcode, rfl⟩ | ⟨-, -, -, rfl⟩ := execGet_next h
    · exact .raised (fieldOp_packFields ..) hcode
    · exact .result rfl
  | size =>
    obtain ⟨code, info, hcode, rfl⟩ | ⟨-, rfl⟩ := execSize_next h
    · exact .raised (fieldOp_packFields ..) hcode
    · exact .result rfl

end Sys2Proof.Proofs
end

section
/-! The invariant of the unit. -/

namespace Sys2Proof.Proofs

open Sys2Proof Sys2Proof.Machine Sys2Proof.Claims

/-- The invariant is about BUF, STATUS, CFG and GRID alone. -/
theorem inv_congr {s t : State} (hs : s.Inv) (hmem : t.mem = s.mem) (hstatus : t.status = s.status) (hcfg : t.cfg = s.cfg)
    (hgrid : t.grid = s.grid) : t.Inv := by
  obtain ⟨h1, h2, h3, h4, h5, h6, h7, h8⟩ := hs
  constructor <;> simp only [curVersion, curMask, curSide, hmem, hstatus, hcfg, hgrid] at * <;> assumption

/-- A fault other than E_ASSERT is recorded with one of the codes 0x01 to 0x10. -/
theorem inv_raise {op : Byte} {code : FaultCode} {info : Nat} {s : State} (hs : s.Inv) (hcode : code ≠ .assert) :
    (raise op code info s).Inv where
  __ := hs
  fault_code := by cases code <;> simp_all [FaultCode.number]
  fault_none h := by cases code <;> simp_all [FaultCode.number]

theorem inv_clearFault {s : State} (hs : s.Inv) : (clearFault s).Inv where
  __ := hs
  fault_code := by simp [Status.clear]
  fault_none _ := ⟨rfl, rfl⟩

theorem inv_writeBuf {s : State} (hs : s.Inv) {b : Buffer} {o : Nat} {vs : List Byte} (h : o + vs.length ≤ b.size) :
    (writeBuf b o vs s).Inv where
  __ := hs
  mem_wf := writeBuf_wf h hs.mem_wf

/-- A version that LAYOUT accepts is held as it is (R220). -/
theorem curVersion_selectLayout {v : Nat} (hv : v ≤ Config.maxVersion) (l : Level) (s : State) :
    curVersion (selectLayout v l s) = v := by
  rw [curVersion, selectLayout_cfg]
  exact toNat_ofNat_of_lt (hv.trans_lt (by decide))

theorem inv_selectLayout {v : Nat} (l : Level) {s : State} (hs : s.Inv) (hv : 1 ≤ v) (hv' : v ≤ Config.maxVersion) :
    (selectLayout v l s).Inv where
  __ := hs
  layout_some _ := by rw [curVersion_selectLayout hv']; exact ⟨hv, hv'⟩
  layout_none := nofun
  grid_some := nofun

theorem inv_selectMask (m : Nat) {s : State} (hs : s.Inv) : (selectMask m s).Inv where
  __ := hs
  mask_none := nofun
  grid_some h := ⟨rfl, (hs.grid_some h).2⟩

/-- No symbol is larger than that of version 40 (R42). -/
theorem curSide_le {s : State} (hs : s.Inv) : curSide s ≤ 177 := by
  have hv : curVersion s ≤ 40 := by
    cases hl : s.cfg.layv
    · exact (hs.layout_none hl).1.trans_le (by decide)
    · exact (hs.layout_some hl).2
  simp only [curSide, side]
  omega

/-- The redundancy of the blocks fits ECCW (R41, R255). -/
theorem blocksEcc_fits (s : State) (data : List Byte) : 0 + (blocksEcc (curRow s) data).length ≤ Buffer.eccw.size := by
  obtain ⟨-, hecc, -⟩ := blockRow_bounds (curVersion s) s.cfg.ecl
  rw [blocksEcc_length]
  simp only [curRow, Buffer.size]
  omega

theorem inv_assembleSymbol {s : State} (hs : s.Inv) (hlay : s.cfg.layv = true) (hmask : s.cfg.mskv = true) (data : List Byte) :
    (assembleSymbol data s).Inv where
  __ := hs
  mem_wf := writeBuf_wf (blocksEcc_fits s data) hs.mem_wf
  layout_none h := absurd (hlay.symm.trans h) (by decide)
  grid_some _ := ⟨hmask, by
    rw [assembleSymbol_grid, writeGrid_grid, List.length_append, matrixBits_length]
    exact Nat.le_add_right _ _⟩
  grid_size := by
    have hside : curSide s * curSide s ≤ 177 * 177 := Nat.mul_le_mul (curSide_le hs) (curSide_le hs)
    have hgrid := hs.grid_size
    rw [assembleSymbol_grid, writeGrid_grid, List.length_append, matrixBits_length, List.length_drop, ← curSide.eq_def]
    omega

/-- Whatever a command leaves meets the invariant. -/
theorem Effect.inv {i : Instr} {s t : State} (h : Effect i s t) (hs : s.Inv) : t.Inv := by
  cases h with
  | raised _ hcode => exact inv_raise hs hcode
  | idle => exact hs
  | cleared => exact inv_clearFault hs
  | result => exact inv_congr hs rfl rfl rfl rfl
  | results => exact inv_congr hs rfl rfl rfl rfl
  | row _ hlen => exact inv_writeBuf hs (by rwa [Nat.zero_add])
  | bytes _ hlen => exact inv_congr (inv_writeBuf hs (by rwa [Nat.zero_add])) rfl rfl rfl rfl
  | layout _ hv hv' => exact inv_selectLayout _ hs hv hv'
  | mask => exact inv_selectMask _ hs
  | stream _ hlen =>
    exact inv_congr (inv_writeBuf hs (b := .bits) (o := 0) (by rwa [Nat.zero_add, packBytes_length])) rfl rfl rfl rfl
  | @solution p sol o vs _ hecc hout hdata =>
    have hlen : ((List.zipWith (fun d m => d ^^ m) sol.bits p.md).map bitByte).length ≤ Buffer.out.size := by
      rw [List.length_map, List.length_zipWith]
      omega
    have hdone := inv_writeBuf (b := .ecc) (o := 0) (vs := rs (packBytes sol.bits) p.eccCw)
      (inv_writeBuf (b := .out) (o := 0) (inv_writeBuf hs hdata) (by rwa [Nat.zero_add])) (by rwa [Nat.zero_add, rs_length])
    exact inv_congr hdone rfl rfl rfl rfl
  | symbol _ hlay hmask hdata => exact inv_assembleSymbol (inv_writeBuf hs (by rwa [Nat.zero_add])) hlay hmask _

theorem inv_hostMemWrite (a : BitVec 16) (v : Byte) {s : State} (hs : s.Inv) : (hostMemWrite a v s).Inv := by
  unfold hostMemWrite
  split_ifs with ha
  · exact { hs with mem_wf := Memory.wf_write ha hs.mem_wf }
  · exact hs

/-- The reset state satisfies the invariant. -/
theorem inv_reset : State.reset.Inv := by constructor <;> decide

/-- Whatever the issue of a word leaves meets the invariant (R120). -/
theorem inv_issueCommand {w : Word} {s t : State} (hs : s.Inv) (h : issueCommand w s = .next t) : t.Inv := by
  obtain ⟨-, -, hissue⟩ | ⟨-, -, hissue⟩ | ⟨-, i, -, hissue⟩ | ⟨-, e, -, hissue⟩ := issueCommand_cases w s <;>
    rw [hissue] at h
  · exact (effect_of_exec h).inv hs
  · cases h
    exact hs
  · exact (effect_of_exec h).inv hs
  · cases h
    exact inv_raise hs (by decide)

/-- Whatever an action of the host leaves meets the invariant (R61, R450). -/
theorem inv_perform {act : HostAction} {s t : State} (hs : s.Inv) (h : perform act s = .next t) : t.Inv := by
  cases act with
  | regRead i =>
    cases h
    exact inv_congr hs rfl rfl rfl rfl
  | regWrite i v =>
    unfold perform at h
    dsimp only at h
    split_ifs at h with hi
    · exact inv_issueCommand hs h
    · cases h
      exact inv_congr hs (by simp) (by simp) (by simp) (by simp)
  | memRead a =>
    cases h
    exact inv_congr hs rfl rfl rfl rfl
  | memWrite a v =>
    cases h
    exact inv_hostMemWrite a v hs
  | reset =>
    cases h
    exact inv_congr inv_reset rfl rfl rfl rfl

/-- Settles O14: every clause is about the fixed values of R50. -/
theorem resetSatisfiesInv : Obligations.ResetSatisfiesInv := inv_reset

/-- Settles O15: every action of the host keeps the invariant, and the queue is no part of it. -/
theorem stepKeepsInv : Obligations.StepKeepsInv := by
  unfold Obligations.StepKeepsInv
  intro s t hs h
  obtain ⟨-, hstep⟩ | ⟨act, rest, -, hstep⟩ := step_cases s <;> rw [hstep] at h
  · cases h
    exact hs
  · exact inv_perform (s := { s with pending := rest }) (inv_congr hs rfl rfl rfl rfl) h

end Sys2Proof.Proofs
end

section
/-! What a command leaves alone: the registers, the bits of CFG and GRID and the reserved addresses. -/

namespace Sys2Proof.Proofs

open Sys2Proof Sys2Proof.Machine Sys2Proof.Claims

theorem writesR12_of_writesBlen {i : Instr} (h : writesBlen i = true) : writesR12 i = true := by
  cases i <;> simp_all [writesBlen, writesR12]

theorem writesR12_of_isSolveblk {i : Instr} (h : isSolveblk i = true) : writesR12 i = true := by
  cases i <;> simp_all [isSolveblk, writesR12]

theorem writesR0_of_writesR12 {i : Instr} (h : writesR12 i = true) : writesR0 i = true := by
  cases i <;> simp_all [writesR12, writesR0]

theorem writesR0_of_writesGrid {i : Instr} (h : writesGrid i = true) : writesR0 i = true := by
  cases i <;> simp_all [writesGrid, writesR0]

/-- STATUS changes by CLRF and by a fault only, which is then all that changed (R404). -/
theorem Effect.status {i : Instr} {s t : State} (h : Effect i s t) (hi : i ≠ .clrf) :
    t.status = s.status ∨ ∃ code info, t = raise (fieldOp (encode i)) code info s := by
  cases h with
  | @raised op code info hop => exact .inr ⟨code, info, by rw [hop]⟩
  | cleared h => exact absurd h hi
  | _ => exact .inl (by simp)

/-- R0 is written by the commands R67 lists (R24). -/
theorem Effect.r0 {i : Instr} {s t : State} (h : Effect i s t) (hi : writesR0 i = false) : t.r0 = s.r0 := by
  cases h with
  | result h | bytes h => simp [hi] at h
  | results h => simp [writesR0_of_writesR12 h] at hi
  | stream h => simp [writesR0_of_writesR12 (writesR12_of_writesBlen h)] at hi
  | solution h => simp [writesR0_of_writesR12 (writesR12_of_isSolveblk h)] at hi
  | symbol h => simp [writesR0_of_writesGrid h] at hi
  | _ => simp

/-- R1 and R2 are written by the commands R67 lists (R24). -/
theorem Effect.r12 {i : Instr} {s t : State} (h : Effect i s t) (hi : writesR12 i = false) : t.r1 = s.r1 ∧ t.r2 = s.r2 := by
  cases h with
  | results h => simp [hi] at h
  | stream h => simp [writesR12_of_writesBlen h] at hi
  | solution h => simp [writesR12_of_isSolveblk h] at hi
  | _ => simp

/-- The length registers change by ENC and ENCV only, and of them only BLEN (R25, R26). -/
theorem Effect.lengths {i : Instr} {s t : State} (h : Effect i s t) :
    t.len0 = s.len0 ∧ t.len1 = s.len1 ∧ (writesBlen i = false → t.blen = s.blen) := by
  cases h with
  | stream h => simp [h]
  | _ => simp

/-- VER, ECL and LAYV change by LAYOUT only, MSK and MSKV by SETMASK only, GRIDV by LAYOUT, BUILD and ASSEMBLE only (R27). -/
theorem Effect.cfg {i : Instr} {s t : State} (h : Effect i s t) :
    (isLayout i = false → t.cfg.ver = s.cfg.ver ∧ t.cfg.ecl = s.cfg.ecl ∧ t.cfg.layv = s.cfg.layv) ∧
    (isSetmask i = false → t.cfg.msk = s.cfg.msk ∧ t.cfg.mskv = s.cfg.mskv) ∧
    (isLayout i = false → writesGrid i = false → t.cfg.gridv = s.cfg.gridv) := by
  cases h with
  | layout h | mask h | symbol h => simp [h]
  | _ => simp

/-- GRID changes by BUILD and ASSEMBLE only, and by them only in the symbol's own bits (R42, R67). -/
theorem Effect.grid {i : Instr} {s t : State} (h : Effect i s t) :
    (writesGrid i = false → t.grid = s.grid) ∧ ∀ n, curSide s * curSide s ≤ n → gridBit t n = gridBit s n := by
  cases h with
  | symbol h =>
    exact ⟨fun hi => by simp [h] at hi, fun n hn => (gridBit_assembleSymbol ..).trans (if_neg (Nat.not_lt.mpr hn))⟩
  | _ => exact ⟨fun _ => rfl, fun _ _ => rfl⟩

/-- The model's own fields: a draw is taken by SOLVEBLK only (log entry 2), and no command is the host's or a reset. -/
theorem Effect.own {i : Instr} {s t : State} (h : Effect i s t) :
    (isSolveblk i = false → t.draws = s.draws) ∧ t.resets = s.resets ∧ t.pending = s.pending ∧ t.replies = s.replies := by
  cases h with
  | solution h => simp [h]
  | _ => simp

/-- Settles O17, register by register from what a command can leave. -/
theorem commandsWriteOnlyTheRegistersTheyName : Obligations.CommandsWriteOnlyTheRegistersTheyName := by
  unfold Obligations.CommandsWriteOnlyTheRegistersTheyName
  intro i s t h
  have heffect := effect_of_exec h
  obtain ⟨hlen0, hlen1, hblen⟩ := heffect.lengths
  obtain ⟨hlayout, hmask, hgridv⟩ := heffect.cfg
  obtain ⟨hgrid, hbits⟩ := heffect.grid
  refine ⟨?_, heffect.status, heffect.r0, heffect.r12, hlen0, hlen1, hblen, hlayout, hmask, hgridv, hgrid, fun _ => hbits,
    heffect.own⟩
  rintro rfl
  exact execClrf_next h ▸ rfl

/-- A write inside a buffer changes nothing at a reserved address (R65). -/
theorem read?_writeBuf_of_unmapped {b : Buffer} {o a : Nat} {vs : List Byte} {s : State} (h : o + vs.length ≤ b.size)
    (ha : mapped a = false) : (writeBuf b o vs s).mem.read? a = s.mem.read? a := by
  rw [writeBuf_mem, Memory.read?_writeBytes, if_neg]
  rintro ⟨hlo, hhi⟩
  have hmapped := mapped_of_buffer b (i := a - b.base) (by omega)
  rw [Nat.add_sub_of_le (by omega), ha] at hmapped
  cases hmapped

/-- No command changes what a reserved address stores: every store is inside its buffer (R41, R65). -/
theorem Effect.read?_of_unmapped {i : Instr} {s t : State} (h : Effect i s t) {a : Nat} (ha : mapped a = false) :
    t.mem.read? a = s.mem.read? a := by
  cases h with
  | row _ hlen | bytes _ hlen => exact read?_writeBuf_of_unmapped (by omega) ha
  | stream _ hlen =>
    rw [placeStream_mem]
    exact read?_writeBuf_of_unmapped (by rwa [Nat.zero_add, packBytes_length]) ha
  | solution _ hecc hout hdata =>
    rw [placeSolution_mem, read?_writeBuf_of_unmapped (by rwa [Nat.zero_add, rs_length]) ha,
      read?_writeBuf_of_unmapped (by simp; omega) ha, read?_writeBuf_of_unmapped hdata ha]
  | symbol _ _ _ hdata =>
    rw [assembleSymbol_mem, read?_writeBuf_of_unmapped (blocksEcc_fits ..) ha, read?_writeBuf_of_unmapped (by omega) ha]
  | _ => rfl

end Sys2Proof.Proofs
end

section
/-! The host's accesses to the bytes of BUF, reserved addresses and reserved registers (R61, R65). -/

namespace Sys2Proof.Proofs

open Sys2Proof Sys2Proof.Machine Sys2Proof.Claims

/-- A byte the host writes to a buffer address is the byte it reads there. -/
theorem hostMemRead_hostMemWrite_same {a : BitVec 16} (v : Byte) (s : State) (ha : mapped a.toNat = true) :
    hostMemRead a (hostMemWrite a v s) = v := by
  simp [hostMemRead, hostMemWrite, ha, readByte]

/-- A host write leaves every other address alone. -/
theorem hostMemRead_hostMemWrite_other {a b : BitVec 16} (v : Byte) (s : State) (hb : b ≠ a) :
    hostMemRead b (hostMemWrite a v s) = hostMemRead b s := by
  have hne : b.toNat ≠ a.toNat := fun h => hb (BitVec.eq_of_toNat_eq h)
  unfold hostMemRead hostMemWrite
  split_ifs <;> simp [readByte, Memory.read?_write_other _ _ hne]

theorem hostMemRead_of_unmapped {a : BitVec 16} (s : State) (ha : mapped a.toNat = false) : hostMemRead a s = 0 := by
  simp [hostMemRead, ha]

theorem hostMemWrite_of_unmapped {a : BitVec 16} (v : Byte) (s : State) (ha : mapped a.toNat = false) :
    hostMemWrite a v s = s := by
  simp [hostMemWrite, ha]

/-- A host write changes BUF only. -/
theorem hostMemWrite_frame (a : BitVec 16) (v : Byte) (s : State) : { hostMemWrite a v s with mem := s.mem } = s := by
  unfold hostMemWrite
  split_ifs <;> rfl

theorem readReg_of_reserved {i : Fin 16} (s : State) (hi : 9 ≤ i.val) : readReg i s = 0 := by
  simp (disch := omega) only [readReg, if_neg]

/-- A host write to a register that is not CMD, LEN0, LEN1 or BLEN is ignored (R21, R408). -/
theorem perform_regWrite_ignored {i : Fin 16} (v : Word) (s : State) (h0 : i ≠ 0) (h5 : i ≠ 5) (h6 : i ≠ 6) (h7 : i ≠ 7) :
    perform (.regWrite i v) s = .next s := by
  simp [perform, writeReg, *]

/-- Settles O12: the host's accesses by the laws above, the commands by what they can leave. -/
theorem hostMemoryAndReservedAddresses : Obligations.HostMemoryAndReservedAddresses := by
  unfold Obligations.HostMemoryAndReservedAddresses
  refine ⟨fun s t a v h => ?_, fun _ _ => rfl, fun s i v hi => ?_, fun i s t a h ha => (effect_of_exec h).read?_of_unmapped ha⟩
  · cases h
    exact ⟨hostMemRead_hostMemWrite_same v s, fun b => hostMemRead_hostMemWrite_other v s,
      fun ha => ⟨hostMemRead_of_unmapped _ ha, hostMemWrite_of_unmapped v s ha⟩, hostMemWrite_frame a v s⟩
  · exact ⟨readReg_of_reserved s hi, perform_regWrite_ignored v s (by omega) (by omega) (by omega) (by omega)⟩

end Sys2Proof.Proofs
end

section
/-! The host's next action, its accesses to the registers, and reset (R20, R25, R26, R50, R120). -/

namespace Sys2Proof.Proofs

open Sys2Proof Sys2Proof.Machine Sys2Proof.Claims

/-- A command issued with no fault recorded runs (R120). -/
theorem issueCommand_of_decode {w : Word} {i : Instr} {s : State} (hs : s.status.fault = 0) (hd : decode w = .ok i) :
    issueCommand w s = exec i s := by
  simp [issueCommand, faultRecorded, hs, hd]

/-- Settles O5: a step takes the first waiting action, and the issue of a decoded word with no fault recorded runs it. -/
theorem stepRunsTheDecodedCommand : Obligations.StepRunsTheDecodedCommand := by
  unfold Obligations.StepRunsTheDecodedCommand
  have hnext : ∀ (s : State) (act : HostAction) (rest : List HostAction), s.pending = act :: rest →
      step s = perform act { s with pending := rest } := by
    intro s act rest h
    rw [step, performNext, h]
  refine ⟨fun s h => ?_, hnext, fun s w rest i h hs hd => ?_, fun s w i hs hd => ?_⟩
  · rw [step, performNext, h]
  · rw [hnext s _ _ h]
    exact issueCommand_of_decode (s := { s with pending := rest }) hs hd
  · rw [State.withFetchWord, hnext _ _ _ (enqueueCommand_pending ..), Nat.mod_eq_of_lt w.isLt, word, BitVec.ofNat_toNat,
      BitVec.setWidth_eq]
    exact issueCommand_of_decode hs hd

/-- LEN0, LEN1 and BLEN hold the low half of what the host writes, and are read zero-extended (R25, R26). -/
theorem readReg_writeReg_same {i : Fin 16} (v : Word) (s : State) (hi : i = 5 ∨ i = 6 ∨ i = 7) :
    (readReg i (writeReg i v s)).toNat = v.toNat % 2 ^ 16 := by
  obtain rfl | rfl | rfl := hi <;> simp [readReg, writeReg, BitVec.toNat_setWidth] <;> omega

/-- A host write to one register is read in no other (R25, R26). -/
theorem readReg_writeReg_other {i j : Fin 16} (v : Word) (s : State) (hj : j ≠ i) :
    readReg j (writeReg i v s) = readReg j s := by
  unfold writeReg
  split_ifs with h5 h6 h7
  · subst h5; simp [readReg, hj]
  · subst h6; simp [readReg, hj]
  · subst h7; simp [readReg, hj]
  · rfl

/-- Settles O11: a length register's write is read back, and every other write is ignored. -/
theorem hostRegisterAccesses : Obligations.HostRegisterAccesses := by
  unfold Obligations.HostRegisterAccesses
  refine fun s v => ⟨rfl, rfl, rfl, fun i => perform_regWrite_ignored v s, fun _ => rfl, fun i t hi h => ?_⟩
  have hwrite : perform (.regWrite i v) s = .next (writeReg i v s) := if_neg (by omega)
  cases hwrite.symm.trans h
  exact ⟨readReg_writeReg_same v s hi, fun j => readReg_writeReg_other v s⟩

/-- Settles O13: the reset event leaves the registers and stores of the reset state. -/
theorem resetLeaves : Obligations.ResetLeaves := by
  unfold Obligations.ResetLeaves
  have hreset : ∀ i : Fin 16, readReg i State.reset = 0 := by decide
  exact ⟨hreset, fun _ => rfl, rfl, fun s => ⟨resetUnit s, rfl, hreset, fun _ => rfl, rfl⟩⟩

end Sys2Proof.Proofs
end

section
/-! The register images of STATUS and CFG (R23, R27). -/

namespace Sys2Proof.Proofs

open Sys2Proof Sys2Proof.Machine Sys2Proof.Claims

theorem levelOf?_levelOrdinal (l : Level) : levelOf? (levelOrdinal l).toNat = some l := by cases l <;> rfl

/-- The fields of STATUS at their bits (R23). -/
theorem statusWord_fields (t : Status) :
    t.word.extractLsb' 0 8 = t.fault ∧ t.word.extractLsb' 8 8 = t.fop ∧ t.word.extractLsb' 16 16 = t.finfo := by
  unfold Status.word
  refine ⟨?_, ?_, ?_⟩
  · rw [BitVec.extractLsb'_append_eq_of_add_le (by decide), BitVec.extractLsb'_eq_self]
  · rw [BitVec.extractLsb'_append_eq_of_le (by decide), BitVec.extractLsb'_append_eq_of_add_le (by decide),
      BitVec.extractLsb'_eq_self]
  · rw [BitVec.extractLsb'_append_eq_of_le (by decide), BitVec.extractLsb'_append_eq_of_le (by decide),
      BitVec.extractLsb'_eq_self]

/-- Bit `i` of CFG, field by field (R27). -/
theorem cfgWord_getLsbD (c : Cfg) (i : Nat) : c.word.getLsbD i =
    if i < 6 then c.ver.getLsbD i else if i < 8 then false else if i < 10 then (levelOrdinal c.ecl).getLsbD (i - 8)
    else if i < 12 then false else if i < 15 then c.msk.getLsbD (i - 12) else if i < 16 then false
    else if i = 16 then c.layv else if i = 17 then c.mskv else if i = 18 then c.gridv else false := by
  unfold Cfg.word
  rw [BitVec.getLsbD_append]
  simp only [BitVec.getLsbD_append, BitVec.getLsbD_ofBool, BitVec.getLsbD_zero, BitVec.ofNat_eq_ofNat, Nat.sub_sub]
  by_cases hi : i < 19
  · interval_cases i <;> simp
  · simp (disch := omega) only [if_neg]

/-- The numbers of CFG at their bits (R27). -/
theorem cfgWord_fields (c : Cfg) :
    c.word.extractLsb' 0 6 = c.ver ∧ c.word.extractLsb' 8 2 = levelOrdinal c.ecl ∧ c.word.extractLsb' 12 3 = c.msk := by
  unfold Cfg.word
  refine ⟨?_, ?_, ?_⟩
  · rw [BitVec.extractLsb'_append_eq_of_add_le (by decide), BitVec.extractLsb'_eq_self]
  · repeat rw [BitVec.extractLsb'_append_eq_of_le (by decide)]
    rw [BitVec.extractLsb'_append_eq_of_add_le (by decide), BitVec.extractLsb'_eq_self]
  · repeat rw [BitVec.extractLsb'_append_eq_of_le (by decide)]
    rw [BitVec.extractLsb'_append_eq_of_add_le (by decide), BitVec.extractLsb'_eq_self]

/-- The valid bits of CFG (R27). -/
theorem cfgWord_valid_bits (c : Cfg) :
    c.word.getLsbD 16 = c.layv ∧ c.word.getLsbD 17 = c.mskv ∧ c.word.getLsbD 18 = c.gridv := by
  simp only [cfgWord_getLsbD]
  exact ⟨rfl, rfl, rfl⟩

/-- The bits of CFG that no field has read 0 (R27). -/
theorem cfgWord_reserved_bits (c : Cfg) : c.word &&& 0xFFF88CC0 = 0 := by
  refine BitVec.eq_of_getLsbD_eq fun i hi => ?_
  rw [BitVec.getLsbD_and, cfgWord_getLsbD]
  interval_cases i <;> simp

/-- Settles O10: the images of STATUS and CFG field by field. -/
theorem registerImages : Obligations.RegisterImages := by
  unfold Obligations.RegisterImages
  intro s
  obtain ⟨hfault, hfop, hfinfo⟩ := statusWord_fields s.status
  obtain ⟨hver, hecl, hmsk⟩ := cfgWord_fields s.cfg
  obtain ⟨hlayv, hmskv, hgridv⟩ := cfgWord_valid_bits s.cfg
  have hlevel : levelOf? ((readReg 8 s).extractLsb' 8 2).toNat = some s.cfg.ecl :=
    (congrArg (fun b : BitVec 2 => levelOf? b.toNat) hecl).trans (levelOf?_levelOrdinal s.cfg.ecl)
  have hzext : ∀ h : Half, (h.setWidth 32).toNat = h.toNat := fun _ => BitVec.toNat_setWidth_of_le (by decide)
  exact ⟨rfl, fun i => readReg_of_reserved s, hfault, hfop, hfinfo, rfl, rfl, rfl, hzext _, hzext _, hzext _, hver, hlevel,
    hmsk, hlayv, hmskv, hgridv, cfgWord_reserved_bits s.cfg⟩

end Sys2Proof.Proofs
end

section
/-! The grid after BUILD and ASSEMBLE, read back through GET, CELL, MASKBIT, FMTINFO and VERINFO (R370, R375, R376). -/

namespace Sys2Proof.Proofs

open Sys2Proof Sys2Proof.Machine Sys2Proof.Claims

/-! Stores made of pieces of one length: ECCW of blocks, the matrix of rows. -/

/-- Element `k * m + i` of pieces of length `m` put together is element `i` of piece `k`. -/
theorem getD_flatMap_range {α : Type} {f : Nat → List α} {m n k i : Nat} (hlen : ∀ j, (f j).length = m) (hk : k < n)
    (hi : i < m) (d : α) : ((List.range n).flatMap f).getD (k * m + i) d = (f k).getD i d := by
  induction n with
  | zero => omega
  | succ n ih =>
    have hrows : ((List.range n).flatMap f).length = n * m := by simp [List.length_flatMap, hlen]
    rw [List.range_succ, List.flatMap_append, List.flatMap_singleton]
    obtain hk | rfl := Nat.lt_succ_iff_lt_or_eq.mp hk
    · have hin : k * m + i < n * m := by
        have := Nat.mul_le_mul_right m (Nat.succ_le_of_lt hk)
        rw [Nat.succ_mul] at this
        omega
      rw [List.getD_append _ _ _ _ (by omega), ih hk]
    · rw [List.getD_append_right _ _ _ _ (by omega), hrows, Nat.add_sub_cancel_left]

/-- The redundancy of block k in ECCW (R375). -/
theorem blocksEcc_getD (r : BlockRow) (data : List Byte) {k i : Nat} (hk : k < nblocks r) (hi : i < r.eccLen) :
    (blocksEcc r data).getD (k * r.eccLen + i) 0 = (rs (blockData r data k) r.eccLen).getD i 0 :=
  getD_flatMap_range (fun _ => rs_length _ _) hk hi 0

/-- A data codeword of block k in DATA (R375). -/
theorem blockData_getD (r : BlockRow) (data : List Byte) {k i : Nat} (hi : i < dataLen r k) :
    (blockData r data k).getD i 0 = data.getD (dataOff r k + i) 0 := by
  simp [blockData, List.getD_eq_getElem?_getD, hi]

/-- A module of the matrix: the unmasked value xored with the mask bit (R370). -/
theorem matrixBits_getD (v : Nat) (l : Level) (m : Nat) (data ecc : List Byte) {x y : Nat} (hx : x < side v) (hy : y < side v) :
    (matrixBits v l m data ecc).getD (y * side v + x) false =
      (unmasked v l m data ecc (layoutCell v l x y) ^^ maskArr v l m x y) := by
  unfold matrixBits
  rw [getD_flatMap_range (fun _ => by simp) hy hx]
  simp [List.getD_eq_getElem?_getD, hx, layoutCell, maskArr]

/-! What a layout records of a cell is in the range its field of R222 has. -/

/-- The bit of an information cell is one of its word's, and version information there is from version 7 on; the address of
a Data or Ecc cell is that of a codeword bit of a block. -/
def CellWithin (v : Nat) (r : BlockRow) : Cell → Prop
  | .formatInfo bit _ => bit < 15
  | .versionInfo bit _ => 7 ≤ v ∧ bit < 18
  | .data _ bit k i => bit < 8 ∧ k < nblocks r ∧ i < dataLen r k
  | .ecc _ bit k i => bit < 8 ∧ k < nblocks r ∧ i < r.eccLen
  | _ => True

theorem formatCell_within {sd x y : Nat} {c : Cell} (h : formatCell sd x y = some c) (v : Nat) (r : BlockRow) : CellWithin v r c := by
  unfold formatCell at h
  split at h
  next i hi =>
    cases h
    exact List.mem_range.mp (List.mem_of_find?_eq_some hi)
  next =>
    obtain ⟨i, hi, rfl⟩ := Option.map_eq_some_iff.mp h
    exact List.mem_range.mp (List.mem_of_find?_eq_some hi)

theorem versionCell_within {v x y : Nat} {c : Cell} (h : versionCell v x y = some c) (r : BlockRow) : CellWithin v r c := by
  unfold versionCell at h
  split_ifs at h with hv
  split at h
  next i hi =>
    cases h
    exact ⟨by omega, List.mem_range.mp (List.mem_of_find?_eq_some hi)⟩
  next =>
    obtain ⟨i, hi, rfl⟩ := Option.map_eq_some_iff.mp h
    exact ⟨by omega, List.mem_range.mp (List.mem_of_find?_eq_some hi)⟩

theorem functionCell_within {v x y : Nat} {c : Cell} (h : functionCell v x y = some c) (r : BlockRow) : CellWithin v r c := by
  simp only [functionCell, Option.orElse_eq_some] at h
  obtain h | ⟨-, h | ⟨-, h | ⟨-, h | ⟨-, h | ⟨-, h | ⟨-, h⟩⟩⟩⟩⟩⟩ := h
  · obtain ⟨_, -, rfl⟩ := Option.map_eq_some_iff.mp h
    trivial
  · rw [separatorCell] at h
    split_ifs at h
    cases h
    trivial
  · obtain ⟨_, -, rfl⟩ := Option.map_eq_some_iff.mp h
    trivial
  · rw [timingCell] at h
    split_ifs at h <;> cases h <;> trivial
  · rw [darkCell] at h
    split_ifs at h
    cases h
    trivial
  · exact formatCell_within h v r
  · exact versionCell_within h r

/-- An entry of the codeword stream is a codeword of a block (R195). -/
theorem mem_cwStream {r : BlockRow} {e : CwEntry} (h : e ∈ cwStream r) :
    e.block < nblocks r ∧ (e.kind = .data → e.index < dataLen r e.block) ∧ (e.kind = .ecc → e.index < r.eccLen) := by
  simp only [cwStream, List.mem_append, List.mem_flatMap, List.mem_map, List.mem_filter, List.mem_range,
    decide_eq_true_eq] at h
  obtain ⟨i, -, k, ⟨hk, hi⟩, rfl⟩ | ⟨i, hi, k, hk, rfl⟩ := h
  · exact ⟨hk, fun _ => hi, nofun⟩
  · exact ⟨hk, nofun, fun _ => hi⟩

theorem walkedCell_within (v : Nat) (r : BlockRow) (n : Nat) : CellWithin v r (walkedCell (cwStream r) n) := by
  unfold walkedCell
  split
  next k i he =>
    obtain ⟨hk, hi, -⟩ := mem_cwStream (List.mem_of_getElem? he)
    exact ⟨by omega, hk, hi rfl⟩
  next k i he =>
    obtain ⟨hk, -, hi⟩ := mem_cwStream (List.mem_of_getElem? he)
    exact ⟨by omega, hk, hi rfl⟩
  next => trivial

theorem layoutCell_within (v : Nat) (l : Level) (x y : Nat) : CellWithin v (blockRow v l) (layoutCell v l x y) := by
  unfold layoutCell cellWith
  split
  next c hc => exact functionCell_within hc _
  next =>
    split
    next => exact walkedCell_within _ _ _
    next => trivial

/-! The cell as CELL answers it (R222). -/

theorem word_toNat_bool (b : Bool) : word b.toNat = (BitVec.ofBool b).setWidth 32 := by cases b <;> rfl

/-- Bit `i` of the register image of a number. -/
theorem word_getLsbD (n : Nat) {i : Nat} (hi : i < 32) : (word n).getLsbD i = n.testBit i := by
  rw [BitVec.getLsbD_ofNat, decide_eq_true hi, Bool.true_and]

/-- A field of the register image of a number. -/
theorem word_extractLsb'_toNat {n : Nat} (hn : n < 2 ^ 32) (start len : Nat) :
    ((word n).extractLsb' start len).toNat = n / 2 ^ start % 2 ^ len := by
  rw [BitVec.extractLsb'_toNat, toNat_ofNat_of_lt hn, Nat.shiftRight_eq_div_pow]

/-- The three fields of R2 for a Data or Ecc cell. -/
theorem codewordAddress_fields {bit block index : Nat} (hbit : bit < 8) (hblock : block < 256) (hindex : index < 65536) :
    ((word (bit ||| block <<< 8 ||| index <<< 16)).extractLsb' 0 8).toNat = bit ∧
    ((word (bit ||| block <<< 8 ||| index <<< 16)).extractLsb' 8 8).toNat = block ∧
    ((word (bit ||| block <<< 8 ||| index <<< 16)).extractLsb' 16 16).toNat = index := by
  have hlow : bit ||| block <<< 8 = block * 2 ^ 8 + bit := by
    rw [Nat.or_comm, ← Nat.shiftLeft_add_eq_or_of_lt (by omega), Nat.shiftLeft_eq]
  have hall : bit ||| block <<< 8 ||| index <<< 16 = index * 2 ^ 16 + (block * 2 ^ 8 + bit) := by
    rw [hlow, Nat.or_comm, ← Nat.shiftLeft_add_eq_or_of_lt (by omega), Nat.shiftLeft_eq]
  have hfits : index * 2 ^ 16 + (block * 2 ^ 8 + bit) < 2 ^ 32 := by omega
  rw [hall]
  simp only [word_extractLsb'_toNat hfits]
  omega

/-- The types of fixed patterns have the codes 0 to 4; their module is what R1 holds, and no mask flips it. -/
theorem unmasked_of_fixed {c : Cell} (h : (word c.code).toNat ≤ 4) (v : Nat) (l : Level) (m : Nat) (data ecc : List Byte) :
    unmasked v l m data ecc c = (word c.r1).getLsbD 0 ∧ c.maskable = false := by
  have hvalue : ∀ b : Bool, b = (word b.toNat).getLsbD 0 := by decide
  cases c <;> simp [Cell.code] at h <;> exact ⟨hvalue _, rfl⟩

theorem eq_formatInfo_of_code {c : Cell} (h : word c.code = 5) : ∃ bit copy, c = .formatInfo bit copy := by
  cases c <;> simp [Cell.code, word] at h ⊢

theorem eq_versionInfo_of_code {c : Cell} (h : word c.code = 6) : ∃ bit copy, c = .versionInfo bit copy := by
  cases c <;> simp [Cell.code, word] at h ⊢

theorem eq_data_of_code {c : Cell} (h : word c.code = 7) : ∃ cw bit block index, c = .data cw bit block index := by
  cases c <;> simp [Cell.code, word] at h ⊢

theorem eq_ecc_of_code {c : Cell} (h : word c.code = 8) : ∃ cw bit block index, c = .ecc cw bit block index := by
  cases c <;> simp [Cell.code, word] at h ⊢

theorem eq_padding_of_code {c : Cell} (h : word c.code = 9) : c = .padding := by
  cases c <;> simp [Cell.code, word] at h ⊢

section
variable {v : Nat} {l : Level} {m : Nat} {data ecc : List Byte}

/-- A format cell holds its bit of the word FMTINFO answers (R204, R224). -/
theorem unmasked_formatInfo {bit copy : Nat} (h : CellWithin v (blockRow v l) (.formatInfo bit copy)) :
    unmasked v l m data ecc (.formatInfo bit copy) = (word (fmtWord l m)).getLsbD (word bit).toNat := by
  have hbit : bit < 15 := h
  rw [toNat_ofNat_of_lt (by omega), word_getLsbD _ (by omega)]
  rfl

/-- A version cell holds its bit of the word VERINFO answers (R205, R225). -/
theorem unmasked_versionInfo {bit copy : Nat} (h : CellWithin v (blockRow v l) (.versionInfo bit copy)) :
    unmasked v l m data ecc (.versionInfo bit copy) =
      (word (if v ≥ 7 then verWord v else 0)).getLsbD (word bit).toNat := by
  obtain ⟨hv, hbit⟩ := h
  rw [if_pos hv, toNat_ofNat_of_lt (by omega), word_getLsbD _ (by omega)]
  rfl

/-- A Data cell holds the bit of its block's data at the address CELL answers (R222, R375). -/
theorem unmasked_data {cw bit k i : Nat} (h : CellWithin v (blockRow v l) (.data cw bit k i)) :
    unmasked v l m data ecc (.data cw bit k i) =
      ((dataBlock (blockRow v l) data ((word (Cell.data cw bit k i).r2).extractLsb' 8 8).toNat).getD
        ((word (Cell.data cw bit k i).r2).extractLsb' 16 16).toNat 0).getLsbD
          ((word (Cell.data cw bit k i).r2).extractLsb' 0 8).toNat := by
  obtain ⟨hbit, hk, hi⟩ := h
  obtain ⟨-, -, hblocks, -, hlen⟩ := blockRow_bounds v l
  have hlast := dataLen_le (blockRow v l) k
  obtain ⟨hfield0, hfield8, hfield16⟩ := codewordAddress_fields hbit (block := k) (index := i) (by omega) (by omega)
  rw [Cell.r2, hfield0, hfield8, hfield16]
  exact congrArg (BitVec.getLsbD · bit) (blockData_getD _ data hi).symm

/-- An Ecc cell holds the bit of its block's redundancy at the address CELL answers (R222, R375). -/
theorem unmasked_ecc {cw bit k i : Nat} (h : CellWithin v (blockRow v l) (.ecc cw bit k i)) :
    unmasked v l m data (blocksEcc (blockRow v l) data) (.ecc cw bit k i) =
      ((rs (dataBlock (blockRow v l) data ((word (Cell.ecc cw bit k i).r2).extractLsb' 8 8).toNat)
        (blockRow v l).eccLen).getD ((word (Cell.ecc cw bit k i).r2).extractLsb' 16 16).toNat 0).getLsbD
          ((word (Cell.ecc cw bit k i).r2).extractLsb' 0 8).toNat := by
  obtain ⟨hbit, hk, hi⟩ := h
  obtain ⟨-, -, hblocks, hecc, -⟩ := blockRow_bounds v l
  obtain ⟨hfield0, hfield8, hfield16⟩ := codewordAddress_fields hbit (block := k) (index := i) (by omega) (by omega)
  rw [Cell.r2, hfield0, hfield8, hfield16]
  exact congrArg (BitVec.getLsbD · bit) (blocksEcc_getD _ data hk hi)

end

/-! The commands that complete on a valid grid. -/

section
variable {t : State} {x y : Nat}

theorem exec_get_of_lt (hgrid : t.cfg.gridv = true) (hx : x < curSide t) (hy : y < curSide t) :
    exec (.get x y) t = .next (setR0 (gridBit t (y * curSide t + x)).toNat t) := by
  simp [exec, execGet, hgrid, hx, hy, Nat.not_le.mpr]

theorem exec_maskbit_of_lt (hlay : t.cfg.layv = true) (hmask : t.cfg.mskv = true) (hx : x < curSide t) (hy : y < curSide t) :
    exec (.maskbit x y) t = .next (setR0 (maskArr (curVersion t) t.cfg.ecl (curMask t) x y).toNat t) := by
  simp [exec, execMaskbit, maskbitUnder, hlay, hmask, hx, hy, Nat.not_le.mpr]

theorem exec_cell_of_lt (hlay : t.cfg.layv = true) (hx : x < curSide t) (hy : y < curSide t) :
    exec (.cell x y) t = .next (setR012 (curCell t x y).code (curCell t x y).r1 (curCell t x y).r2 t) := by
  simp [exec, execCell, cellUnder, hlay, hx, hy, Nat.not_le.mpr]

theorem exec_fmtinfo_of_layout (hlay : t.cfg.layv = true) (hmask : t.cfg.mskv = true) :
    exec .fmtinfo t = .next (setR0 (fmtWord t.cfg.ecl (curMask t)) t) := by
  simp [exec, execFmtinfo, hlay, hmask]

theorem exec_verinfo_of_layout (hlay : t.cfg.layv = true) :
    exec .verinfo t = .next (setR0 (if curVersion t ≥ 7 then verWord (curVersion t) else 0) t) := by
  simp [exec, execVerinfo, hlay]

end

/-- GRID holds at every module the unmasked value of its cell xored with its mask bit (R370). -/
def ShowsMatrix (data : List Byte) (t : State) : Prop :=
  ∀ x y, x < curSide t → y < curSide t → gridBit t (y * curSide t + x) =
    (unmasked (curVersion t) t.cfg.ecl (curMask t) data (blocksEcc (curRow t) data) (curCell t x y) ^^
      maskArr (curVersion t) t.cfg.ecl (curMask t) x y)

theorem showsMatrix_assembleSymbol (data : List Byte) (s : State) : ShowsMatrix data (assembleSymbol data s) := by
  unfold ShowsMatrix
  simp only [curSide, curRow, curCell, curVersion, curMask, assembleSymbol_cfg]
  intro x y hx hy
  have hin : y * curSide s + x < curSide s * curSide s := by
    have := Nat.mul_le_mul_right (curSide s) (Nat.succ_le_of_lt hy)
    rw [Nat.succ_mul] at this
    simp only [curSide, curVersion] at this ⊢
    omega
  exact (gridBit_assembleSymbol ..).trans ((if_pos hin).trans (matrixBits_getD _ _ _ _ _ hx hy))

/-- A valid grid that holds the matrix shows it through the commands (R376). -/
theorem rendersModules_of_showsMatrix {data : List Byte} {t : State} (hlay : t.cfg.layv = true) (hmask : t.cfg.mskv = true)
    (hgrid : t.cfg.gridv = true) (h : ShowsMatrix data t) : RendersModules data t := by
  intro x y hx hy
  have hwithin : CellWithin (curVersion t) (curRow t) (curCell t x y) := layoutCell_within ..
  have hmodule := h x y hx hy
  set bit := maskArr (curVersion t) t.cfg.ecl (curMask t) x y
  have hbit : bit = ((curCell t x y).maskable && maskPred (curMask t) x y) := rfl
  refine ⟨gridBit t (y * curSide t + x), bit, _, _, _, ?_, ?_, exec_fmtinfo_of_layout hlay hmask, exec_verinfo_of_layout hlay,
    exec_cell_of_lt hlay hx hy, ?_⟩
  · rw [← word_toNat_bool]
    exact exec_get_of_lt hgrid hx hy
  · rw [← word_toNat_bool]
    exact exec_maskbit_of_lt hlay hmask hx hy
  rw [hmodule]
  simp only [setR012_r0, setR012_r1, setR012_r2]
  generalize curCell t x y = c at *
  refine ⟨fun hc => ?fixed, fun hc => ?format, fun hc => ?version, fun hc => ?data, fun hc => ?ecc, fun hc => ?padding⟩
  case fixed =>
    obtain ⟨hvalue, hmaskable⟩ := unmasked_of_fixed hc (curVersion t) t.cfg.ecl (curMask t) data (blocksEcc (curRow t) data)
    rw [hvalue, hbit, hmaskable, Bool.false_and, Bool.xor_false]
  case format =>
    obtain ⟨b, copy, rfl⟩ := eq_formatInfo_of_code hc
    rw [unmasked_formatInfo hwithin, hbit]
    exact Bool.xor_false _
  case version =>
    obtain ⟨b, copy, rfl⟩ := eq_versionInfo_of_code hc
    rw [unmasked_versionInfo hwithin, hbit]
    exact Bool.xor_false _
  case data =>
    obtain ⟨cw, b, k, i, rfl⟩ := eq_data_of_code hc
    rw [Bool.xor_assoc, Bool.xor_self, Bool.xor_false]
    exact unmasked_data hwithin
  case ecc =>
    obtain ⟨cw, b, k, i, rfl⟩ := eq_ecc_of_code hc
    rw [Bool.xor_assoc, Bool.xor_self, Bool.xor_false]
    exact unmasked_ecc hwithin
  case padding =>
    obtain rfl := eq_padding_of_code hc
    exact Bool.false_xor _

theorem rendersModules_assembleSymbol {s : State} (hs : HasLayoutAndMask s) (data : List Byte) :
    RendersModules data (assembleSymbol data s) := by
  obtain ⟨⟨hlay, -, -⟩, hmask⟩ := hs
  exact rendersModules_of_showsMatrix hlay hmask rfl (showsMatrix_assembleSymbol data s)

theorem exec_build_of_layout {s : State} (hs : HasLayoutAndMask s) (hblen : s.blen.toNat = 8 * dataTotal (curRow s)) :
    exec .build s = .next (assembleSymbol (bytesAt s 0x2000 (dataTotal (curRow s)))
      (writeBuf .data 0 (bytesAt s 0x2000 (dataTotal (curRow s))) s)) := by
  obtain ⟨⟨hlay, -, -⟩, hmask⟩ := hs
  simp [exec, execBuild, buildUnder, hlay, hmask, hblen]
  rfl

theorem exec_assemble_of_layout {s : State} (hs : HasLayoutAndMask s) :
    exec .assemble s = .next (assembleSymbol (bytesAt s 0x3000 (dataTotal (curRow s))) s) := by
  obtain ⟨⟨hlay, -, -⟩, hmask⟩ := hs
  simp [exec, execAssemble, assembleUnder, hlay, hmask]
  rfl

/-- Settles O57: BUILD and ASSEMBLE leave the symbol of the bytes they read, and the symbol shows them. -/
theorem gridRendersTheCodewords : Obligations.GridRendersTheCodewords := by
  unfold Obligations.GridRendersTheCodewords
  refine fun s hs => ⟨fun hblen => ⟨_, exec_build_of_layout hs hblen, ?_⟩, _, exec_assemble_of_layout hs, ?_⟩
  · exact rendersModules_assembleSymbol (s := writeBuf .data 0 _ s) hs _
  · exact rendersModules_assembleSymbol hs _

end Sys2Proof.Proofs
end

section
/-! GF(2^8) as polynomials modulo POLY (R130 to R137), and why a message and its redundancy are a codeword (R160, R161). -/

namespace Sys2Proof.Proofs

open Sys2Proof Sys2Proof.Machine Sys2Proof.Claims

/-! The product of polynomials modulo POLY (R130). -/

/-- The map respects the sum of polynomials and the multiplication by x. -/
structure RespectsXtime (f : Byte → Byte) : Prop where
  map_xor : ∀ a b, f (a ^^^ b) = f a ^^^ f b
  map_xtime : ∀ a, f (xtime a) = xtime (f a)

theorem xor_xor_xor_comm (a b c d : Byte) : a ^^^ b ^^^ (c ^^^ d) = a ^^^ c ^^^ (b ^^^ d) := by
  ac_rfl

theorem xtime_xor (a b : Byte) : xtime (a ^^^ b) = xtime a ^^^ xtime b := by
  have hpoly : (if (a ^^^ b).getLsbD 7 then BitVec.ofNat 8 poly else 0) =
      (if a.getLsbD 7 then BitVec.ofNat 8 poly else 0) ^^^ (if b.getLsbD 7 then BitVec.ofNat 8 poly else 0) := by
    rw [BitVec.getLsbD_xor]
    cases a.getLsbD 7 <;> cases b.getLsbD 7 <;> simp
  rw [xtime, xtime, xtime, BitVec.shiftLeft_xor_distrib, hpoly, xor_xor_xor_comm]

theorem RespectsXtime.zero {f : Byte → Byte} (hf : RespectsXtime f) : f 0 = 0 := by
  simpa using hf.map_xor 0 0

theorem respectsXtime_xtime : RespectsXtime xtime := ⟨xtime_xor, fun _ => rfl⟩

theorem RespectsXtime.iterate {f : Byte → Byte} (hf : RespectsXtime f) (n : Nat) : RespectsXtime f^[n] where
  map_xor a b := by
    induction n generalizing a b with
    | zero => rfl
    | succ n ih => simp only [Function.iterate_succ_apply, hf.map_xor, ih]
  map_xtime a := by
    induction n generalizing a with
    | zero => rfl
    | succ n ih => simp only [Function.iterate_succ_apply, hf.map_xtime, ih]

/-- The product is a sum of multiples of its first factor by powers of x, so a map that respects these respects it. -/
theorem RespectsXtime.map_polyMulMod {f : Byte → Byte} (hf : RespectsXtime f) (a b : Byte) :
    f (polyMulMod a b) = polyMulMod (f a) b := by
  suffices h : ∀ (is : List Nat) (acc : Byte),
      f (is.foldl (fun acc i => xtime acc ^^^ (if b.getLsbD i then a else 0)) acc) =
        is.foldl (fun acc i => xtime acc ^^^ (if b.getLsbD i then f a else 0)) (f acc) by
    rw [polyMulMod, h, hf.zero, polyMulMod]
  intro is
  induction is with
  | nil => exact fun _ => rfl
  | cons i is ih =>
    intro acc
    rw [List.foldl_cons, ih, List.foldl_cons, hf.map_xor, hf.map_xtime, apply_ite f, hf.zero]

theorem polyMulMod_xor_left (a a' b : Byte) : polyMulMod (a ^^^ a') b = polyMulMod a b ^^^ polyMulMod a' b := by
  suffices h : ∀ (is : List Nat) (acc acc' : Byte),
      is.foldl (fun acc i => xtime acc ^^^ (if b.getLsbD i then a ^^^ a' else 0)) (acc ^^^ acc') =
        is.foldl (fun acc i => xtime acc ^^^ (if b.getLsbD i then a else 0)) acc ^^^
          is.foldl (fun acc i => xtime acc ^^^ (if b.getLsbD i then a' else 0)) acc' from h _ 0 0
  intro is
  induction is with
  | nil => exact fun _ _ => rfl
  | cons i is ih =>
    intro acc acc'
    rw [List.foldl_cons, List.foldl_cons, List.foldl_cons, ← ih, xtime_xor, ← xor_xor_xor_comm]
    cases b.getLsbD i <;> simp

theorem respectsXtime_polyMulMod (b : Byte) : RespectsXtime fun a => polyMulMod a b :=
  ⟨fun a a' => polyMulMod_xor_left a a' b, fun a => (respectsXtime_xtime.map_polyMulMod a b).symm⟩

theorem polyMulMod_right_comm (a b c : Byte) : polyMulMod (polyMulMod a b) c = polyMulMod (polyMulMod a c) b :=
  (respectsXtime_polyMulMod c).map_polyMulMod a b

@[simp] theorem polyMulMod_one_left (b : Byte) : polyMulMod 1#8 b = b := by
  revert b
  decide +kernel

@[simp] theorem polyMulMod_zero_left (b : Byte) : polyMulMod 0#8 b = 0#8 := (respectsXtime_polyMulMod b).zero

theorem polyMulMod_comm (a b : Byte) : polyMulMod a b = polyMulMod b a := by
  simpa using polyMulMod_right_comm 1#8 a b

theorem polyMulMod_assoc (a b c : Byte) : polyMulMod (polyMulMod a b) c = polyMulMod a (polyMulMod b c) := by
  rw [polyMulMod_comm a b, polyMulMod_right_comm, polyMulMod_comm]

@[simp] theorem polyMulMod_one_right (a : Byte) : polyMulMod a 1#8 = a := by
  rw [polyMulMod_comm, polyMulMod_one_left]

@[simp] theorem polyMulMod_zero_right (a : Byte) : polyMulMod a 0#8 = 0#8 := by
  rw [polyMulMod_comm, polyMulMod_zero_left]

theorem polyMulMod_xor_right (a b b' : Byte) : polyMulMod a (b ^^^ b') = polyMulMod a b ^^^ polyMulMod a b' := by
  simp only [polyMulMod_comm a, polyMulMod_xor_left]

/-! The tables EXP and LOG (R132, R133, R135). -/

theorem alphaPow_succ (i : Nat) : alphaPow (i + 1) = xtime (alphaPow i) := Function.iterate_succ_apply' xtime i 1

theorem polyMulMod_alphaPow (i j : Nat) : polyMulMod (alphaPow i) (alphaPow j) = alphaPow (i + j) := by
  have h := (respectsXtime_xtime.iterate i).map_polyMulMod 1#8 (alphaPow j)
  rw [polyMulMod_one_left] at h
  exact h.symm.trans (Function.iterate_add_apply xtime i j 1).symm

/-- The printed EXP follows the recurrence of R132 and starts again after 255 entries. -/
theorem gfExp_succ_mod (i : Nat) : gfExp ((i + 1) % 255) = xtime (gfExp (i % 255)) := by
  have h : ∀ j, j < 255 → gfExp ((j + 1) % 255) = xtime (gfExp j) := by decide +kernel
  rw [← h _ (Nat.mod_lt i (by decide)), Nat.mod_add_mod]

theorem gfExp_mod (i : Nat) : gfExp (i % 255) = alphaPow i := by
  induction i with
  | zero => decide
  | succ i ih => rw [gfExp_succ_mod, ih, alphaPow_succ]

theorem gfExp_of_lt {i : Nat} (h : i < 255) : gfExp i = alphaPow i := by
  rw [← gfExp_mod, Nat.mod_eq_of_lt h]

/-- The printed LOG inverts the printed EXP. -/
theorem gfExp_gfLog {a : Byte} (ha : a ≠ 0) : ∃ i, i < 255 ∧ gfLog a = some i ∧ alphaPow i = a := by
  have h : ∀ a : Byte, rowsAt logRows a.toNat < 255 ∧ (a ≠ 0 → gfExp (rowsAt logRows a.toNat) = a) := by decide +kernel
  obtain ⟨hlt, hexp⟩ := h a
  exact ⟨_, hlt, if_neg ha, by rw [← gfExp_of_lt hlt, hexp ha]⟩

/-- The product by logarithms is the product of polynomials (R135). -/
theorem gfMul_eq_polyMulMod (a b : Byte) : gfMul a b = polyMulMod a b := by
  by_cases ha : a = 0
  · simp [gfMul, gfLog, ha]
  by_cases hb : b = 0
  · simp [gfMul, gfLog, hb]
  obtain ⟨i, -, hlogA, rfl⟩ := gfExp_gfLog ha
  obtain ⟨j, -, hlogB, rfl⟩ := gfExp_gfLog hb
  rw [gfMul, hlogA, hlogB, polyMulMod_alphaPow]
  exact gfExp_mod (i + j)

/-! Polynomials over the field (R13). -/

@[simp] theorem evalPoly_nil (x : Byte) : evalPoly [] x = 0#8 := rfl

theorem evalPoly_append_singleton (p : List Byte) (c x : Byte) :
    evalPoly (p ++ [c]) x = polyMulMod (evalPoly p x) x ^^^ c := by simp [evalPoly]

theorem evalPoly_append_zero (p : List Byte) (x : Byte) : evalPoly (p ++ [0]) x = polyMulMod (evalPoly p x) x := by
  simp [evalPoly_append_singleton]

theorem evalPoly_replicate_zero (n : Nat) (x : Byte) : evalPoly (List.replicate n 0) x = 0 := by
  induction n with
  | zero => rfl
  | succ n ih =>
    rw [List.replicate_succ', evalPoly_append_zero, ih]
    exact polyMulMod_zero_left x

/-- The terms of the later coefficients go on from the value of the earlier ones. -/
theorem evalPoly_append (p q : List Byte) (x : Byte) :
    evalPoly (p ++ q) x = (polyMulMod · x)^[q.length] (evalPoly p x) ^^^ evalPoly q x := by
  induction q using List.reverseRecOn with
  | nil => simp
  | append_singleton q c ih =>
    rw [← List.append_assoc, evalPoly_append_singleton, ih, polyMulMod_xor_left, evalPoly_append_singleton,
      List.length_append, List.length_singleton, Function.iterate_succ_apply', BitVec.xor_assoc]

theorem evalPoly_cons (c : Byte) (p : List Byte) (x : Byte) :
    evalPoly (c :: p) x = (polyMulMod · x)^[p.length] c ^^^ evalPoly p x := by
  simpa [evalPoly] using evalPoly_append [c] p x

/-- The value of a polynomial plus a multiple of another of the same length. -/
theorem evalPoly_zipWith {p q : List Byte} (h : p.length = q.length) (f x : Byte) :
    evalPoly (List.zipWith (fun a b => gfAdd a (gfMul b f)) p q) x = evalPoly p x ^^^ polyMulMod (evalPoly q x) f := by
  induction p using List.reverseRecOn generalizing q with
  | nil => simp [List.length_eq_zero_iff.mp h.symm]
  | append_singleton p a ih =>
    obtain rfl | ⟨q, b, rfl⟩ := List.eq_nil_or_concat' q
    · simp at h
    replace h : p.length = q.length := by simpa using h
    rw [List.zipWith_append h, List.zipWith_cons_cons, List.zipWith_nil_left, evalPoly_append_singleton, ih h,
      evalPoly_append_singleton, evalPoly_append_singleton, polyMulMod_xor_left, polyMulMod_xor_left,
      polyMulMod_right_comm _ f x, gfMul_eq_polyMulMod, gfAdd, xor_xor_xor_comm]

/-! The generator polynomial (R137). -/

theorem generatorAt_succ (d : Nat) (x : Byte) :
    generatorAt (d + 1) x = polyMulMod (generatorAt d x) (x ^^^ alphaPow d) := by
  simp [generatorAt, List.range_succ]

/-- The powers of ALPHA below its degree are roots of the generator polynomial. -/
theorem generatorAt_alphaPow {d i : Nat} (h : i < d) : generatorAt d (alphaPow i) = 0 := by
  induction d with
  | zero => omega
  | succ d ih =>
    rw [generatorAt_succ]
    obtain hlt | rfl := Nat.lt_succ_iff_lt_or_eq.mp h
    · simp [ih hlt]
    · simp

/-- GEN[d] and its leading 1 are the coefficients of the product of the `x + ALPHA^i`. -/
theorem evalPoly_gfGen {d : Nat} (hd : d ≤ 255) (x : Byte) : evalPoly (1 :: gfGen d) x = generatorAt d x := by
  induction d with
  | zero => simp [gfGen, evalPoly, generatorAt]
  | succ d ih =>
    have hswap : gfGen (d + 1) =
        List.zipWith (fun a b => gfAdd a (gfMul b (gfExp d))) (gfGen d ++ [0]) (1 :: gfGen d) := by
      simp only [gfGen, gfMul_eq_polyMulMod, polyMulMod_comm]
    rw [generatorAt_succ, ← ih (by omega), polyMulMod_xor_right, ← gfExp_of_lt (show d < 255 by omega), evalPoly_cons,
      gfGen_length, hswap, evalPoly_zipWith (by simp), evalPoly_append_zero, ← BitVec.xor_assoc,
      Function.iterate_succ_apply', ← polyMulMod_xor_left]
    congr 2
    rw [evalPoly_cons, gfGen_length]

/-! The long division (R160, R161). -/

/-- One step multiplies the remainder by x and adds the message byte times `x^e`, at every root of the generator. -/
theorem evalPoly_rsStep {g rem : List Byte} {x : Byte} (hroot : evalPoly (1 :: g) x = 0) (hlen : rem.length = g.length)
    (hne : rem ≠ []) (b : Byte) :
    evalPoly (rsStep g rem b) x = polyMulMod (evalPoly rem x) x ^^^ (polyMulMod · x)^[g.length] b := by
  obtain ⟨r, rest, rfl⟩ := List.exists_cons_of_ne_nil hne
  have hpow : evalPoly g x = (polyMulMod · x)^[g.length] 1#8 := by
    rw [evalPoly_cons] at hroot
    exact (BitVec.xor_eq_zero_iff.mp hroot).symm
  have hfactor : ∀ f, polyMulMod (evalPoly g x) f = (polyMulMod · x)^[g.length] f := fun f => by
    rw [hpow, ← ((respectsXtime_polyMulMod x).iterate _).map_polyMulMod, polyMulMod_one_left]
  have hlast : g.length = rest.length + 1 := hlen.symm
  rw [rsStep, List.headD_cons, List.tail_cons, evalPoly_zipWith (by simp [hlast]), evalPoly_append_zero,
    hfactor, gfAdd, ((respectsXtime_polyMulMod x).iterate _).map_xor, evalPoly_cons, polyMulMod_xor_left, hlast,
    Function.iterate_succ_apply' _ _ r]
  ac_rfl

/-- At every root of the generator the redundancy has the value of the message times `x^e`. -/
theorem evalPoly_rs {e : Nat} {x : Byte} (he : 0 < e) (hroot : evalPoly (1 :: gfGen e) x = 0) (m : List Byte) :
    evalPoly (rs m e) x = (polyMulMod · x)^[e] (evalPoly m x) := by
  have hf := respectsXtime_polyMulMod x
  induction m using List.reverseRecOn with
  | nil =>
    exact (evalPoly_replicate_zero e x).trans (hf.iterate e).zero.symm
  | append_singleton m b ih =>
    have hne : rs m e ≠ [] := List.ne_nil_of_length_pos (by rwa [rs_length])
    have hstep : rs (m ++ [b]) e = rsStep (gfGen e) (rs m e) b := by simp [rs]
    rw [hstep, evalPoly_rsStep hroot (by simp) hne, gfGen_length, ih, evalPoly_append_singleton, (hf.iterate e).map_xor,
      ← Function.iterate_succ_apply' (polyMulMod · x), Function.iterate_succ_apply]

/-- A message followed by its redundancy is a codeword (R160). -/
theorem isCodeword_append_rs (m : List Byte) {e : Nat} (he : e ≤ 255) : IsCodeword (m ++ rs m e) e := by
  intro i hi
  have hroot : evalPoly (1 :: gfGen e) (alphaPow i) = 0 := by rw [evalPoly_gfGen he, generatorAt_alphaPow hi]
  rw [evalPoly_append, rs_length, evalPoly_rs (by omega) hroot]
  exact BitVec.xor_self

end Sys2Proof.Proofs
end

section
/-! BUILD and ASSEMBLE: the blocks of DATA and ECCW are codewords, and the rest of BUF keeps its bytes (R371, R372, R375). -/

namespace Sys2Proof.Proofs

open Sys2Proof Sys2Proof.Machine Sys2Proof.Claims

theorem bytesAt_eq_of_getD {s : State} {a : Nat} {vs : List Byte} (h : ∀ i, i < vs.length → readByte s (a + i) = vs.getD i 0) :
    bytesAt s a vs.length = vs := by
  refine List.ext_getElem (by simp [bytesAt]) fun i _ hi => ?_
  rw [← List.getD_eq_getElem _ 0 hi, ← h i hi]
  simp [bytesAt]

/-- The bytes a buffer holds after a write to it. -/
theorem bytesAt_writeBuf (b : Buffer) (vs : List Byte) (s : State) :
    bytesAt (writeBuf b 0 vs s) b.base vs.length = vs :=
  bytesAt_eq_of_getD fun _ hi => readByte_writeBuf_of_lt (o := 0) hi

@[simp] theorem curSide_writeBuf (b : Buffer) (o : Nat) (vs : List Byte) (s : State) :
    curSide (writeBuf b o vs s) = curSide s := by
  simp [curSide, curVersion]

@[simp] theorem curRow_writeBuf (b : Buffer) (o : Nat) (vs : List Byte) (s : State) (q : QrTables) :
    curRow (writeBuf b o vs s) q = curRow s q := by simp [curRow, curVersion]

@[simp] theorem curRow_assembleSymbol (data : List Byte) (s : State) (q q' : QrTables) :
    curRow (assembleSymbol data s q) q' = curRow s q' := by simp [curRow, curVersion]

/-- Beside BUF and GRID the symbol changes R0 and GRIDV (R67). -/
theorem assembleSymbol_frame (data : List Byte) (s : State) (q : QrTables) (m : Memory) (g : List Bool) :
    { assembleSymbol data s q with mem := m, grid := g } =
      { s with mem := m, grid := g, r0 := BitVec.ofNat 32 (curSide s), cfg := { s.cfg with gridv := true } } := by
  simp

/-- The redundancy in ECCW is written outside DATA, which keeps its bytes (R40). -/
theorem readByte_assembleSymbol_of_lt (data : List Byte) (s : State) (q : QrTables) {a : Nat} (ha : a < 0x4000) :
    readByte (assembleSymbol data s q) a = readByte s a := by
  rw [readByte_assembleSymbol, if_neg (by omega)]

theorem bytesAt_assembleSymbol_data (data : List Byte) (s : State) (q : QrTables) {o n : Nat} (h : o + n ≤ 4096) :
    bytesAt (assembleSymbol data s q) (0x3000 + o) n = bytesAt s (0x3000 + o) n :=
  List.map_congr_left fun i hi => by
    have := List.mem_range.mp hi
    exact readByte_assembleSymbol_of_lt data s q (by omega)

/-- The part of ECCW that belongs to block k holds the block's redundancy (R375). -/
theorem bytesAt_assembleSymbol_eccw (data : List Byte) (s : State) (q : QrTables) {k : Nat} (hk : k < nblocks (curRow s q)) :
    bytesAt (assembleSymbol data s q) (0x4000 + k * (curRow s q).eccLen) (curRow s q).eccLen =
      rs (blockData (curRow s q) data k) (curRow s q).eccLen := by
  have hend : k * (curRow s q).eccLen + (curRow s q).eccLen ≤ eccTotal (curRow s q) := by
    rw [← Nat.succ_mul]
    exact Nat.mul_le_mul_right _ hk
  have h := bytesAt_eq_of_getD (s := assembleSymbol data s q) (a := 0x4000 + k * (curRow s q).eccLen)
    (vs := rs (blockData (curRow s q) data k) (curRow s q).eccLen) fun i hi => by
      rw [rs_length] at hi
      rw [readByte_assembleSymbol, if_pos (by omega), Nat.add_assoc, Nat.add_sub_cancel_left, blocksEcc_getD _ data hk hi]
  rwa [rs_length] at h

/-- Block k of the data codewords that DATA holds (R192, R375). -/
theorem blockData_bytesAt (s : State) {r : BlockRow} {k : Nat} (hk : k < nblocks r) :
    blockData r (bytesAt s 0x3000 (dataTotal r)) k = bytesAt s (0x3000 + dataOff r k) (dataLen r k) := by
  have hend := dataOff_add_dataLen_le r hk
  refine List.ext_getElem (by simp [blockData, bytesAt]; omega) fun i _ _ => ?_
  simp [blockData, bytesAt, Nat.add_assoc]

/-- The symbol of the codewords in DATA: every block with its part of ECCW is a codeword, for a row that meets the bounds of
R255. -/
theorem blocksAreCodewords_assembleSymbol {s : State} {q : QrTables} (hecc : (curRow s q).eccLen ≤ 30)
    (hdata : dataTotal (curRow s q) ≤ 4096) :
    BlocksAreCodewords (assembleSymbol (bytesAt s 0x3000 (dataTotal (curRow s q))) s q) q := by
  intro k hk
  rw [curRow_assembleSymbol] at hk ⊢
  have hend := dataOff_add_dataLen_le (curRow s q) hk
  rw [bytesAt_assembleSymbol_data _ _ _ (by omega), bytesAt_assembleSymbol_eccw _ _ _ hk, blockData_bytesAt s hk]
  exact isCodeword_append_rs _ (by omega)

theorem buildUnder_of_layout {s : State} (hs : HasLayoutAndMask s) {q : QrTables}
    (hblen : s.blen.toNat = 8 * dataTotal (curRow s q)) :
    buildUnder q s = .next (assembleSymbol (bytesAt s 0x2000 (dataTotal (curRow s q)))
      (writeBuf .data 0 (bytesAt s 0x2000 (dataTotal (curRow s q))) s) q) := by
  obtain ⟨⟨hlay, -, -⟩, hmask⟩ := hs
  simp [buildUnder, hlay, hmask, hblen]
  rfl

/-- BUILD under tables whose row for the layout meets the bounds of R255 (R371). -/
theorem buildDoes_of_bounds {s : State} (hs : HasLayoutAndMask s) {q : QrTables} (hecc : (curRow s q).eccLen ≤ 30)
    (hdata : dataTotal (curRow s q) ≤ 4096) (hblen : s.blen.toNat = 8 * dataTotal (curRow s q)) :
    BuildDoes q (buildUnder q s) s := by
  set bits := bytesAt s 0x2000 (dataTotal (curRow s q)) with hbits
  have hlen : bits.length = dataTotal (curRow s q) := by simp [hbits, bytesAt]
  have hmoved : bytesAt (writeBuf .data 0 bits s) 0x3000 (dataTotal (curRow s q)) = bits :=
    hlen ▸ bytesAt_writeBuf .data bits s
  refine ⟨_, buildUnder_of_layout hs hblen, (assembleSymbol_frame ..).trans ?_, ?_, ?_, fun a hnotData hnotEccw => ?_⟩
  · simp
  · exact (bytesAt_assembleSymbol_data _ _ q (o := 0) (by omega)).trans hmoved
  · have h := blocksAreCodewords_assembleSymbol (s := writeBuf .data 0 bits s) (q := q)
    rw [curRow_writeBuf, hmoved] at h
    exact h hecc hdata
  · refine (readByte_assembleSymbol ..).trans ((if_neg hnotEccw).trans (readByte_writeBuf_outside ?_))
    rwa [hlen]

/-- Settles O55: DATA takes the bytes of BITS, and the printed tables meet the bounds of R255. -/
theorem buildAssemblesTheBitStream : Obligations.BuildAssemblesTheBitStream := by
  unfold Obligations.BuildAssemblesTheBitStream
  refine fun s hs => ⟨fun hblen => ?_, fun chosen q hrow hblen => ?_⟩
  · obtain ⟨hdata, -, -, hecc, -⟩ := blockRow_bounds (curVersion s) s.cfg.ecl
    exact buildDoes_of_bounds hs hecc (hdata.trans (by decide)) hblen
  · exact buildDoes_of_bounds hs hrow.ecc_len.2 hrow.data_fits hblen

/-- Settles O56: the blocks are those of DATA, which ASSEMBLE does not write. -/
theorem assembleAssemblesTheData : Obligations.AssembleAssemblesTheData := by
  unfold Obligations.AssembleAssemblesTheData
  intro s hs
  obtain ⟨hdata, -, -, hecc, -⟩ := blockRow_bounds (curVersion s) s.cfg.ecl
  refine ⟨_, exec_assemble_of_layout hs, assembleSymbol_frame ..,
    blocksAreCodewords_assembleSymbol hecc (hdata.trans (by decide)), fun a hnotEccw => ?_⟩
  exact (readByte_assembleSymbol ..).trans (if_neg hnotEccw)

end Sys2Proof.Proofs
end

section
/-! What a command stores: every byte outside the ranges of R67 keeps its value. -/

namespace Sys2Proof.Proofs

open Sys2Proof Sys2Proof.Machine Sys2Proof.Claims

variable {s : State} {a : Nat}

theorem readByte_writeBuf_of_not_inRange {b : Buffer} {o n : Nat} {vs : List Byte} (hlen : vs.length = n)
    (h : ¬ inRange a (b.base + o, n)) : readByte (writeBuf b o vs s) a = readByte s a :=
  readByte_writeBuf_outside (hlen ▸ h)

/-- Outside the capacity of the version ENC and ENCV leave BUF alone (R288). -/
theorem readByte_placeStream_of_not_inRange {pad : PadFill} {v total : Nat} {l : Level} {payload : List Byte}
    {segs : List Segment} (hlen : (finalStream pad v l payload total segs).length = capBits v l)
    (h : ¬ inRange a (0x2000, dataTotal (blockRow v l))) :
    readByte (placeStream pad v l payload total segs s) a = readByte s a := by
  rw [readByte_placeStream, hlen, capBits, Nat.mul_div_cancel_left _ (by decide)]
  exact if_neg h

/-- Outside OUT and ECC the results common to both forms of SOLVEBLK leave BUF alone (R340). -/
theorem readByte_placeSolution_of_not_inRange {p : Template} {sol : Solution} (hout : ¬ inRange a (0x5C00, p.md.length))
    (hecc : ¬ inRange a (0x5100, p.eccCw)) : readByte (placeSolution p sol s) a = readByte s a := by
  refine (readByte_placeSolution ..).trans ((if_neg hecc).trans (if_neg fun h => hout ⟨h.1, h.2.trans_le ?_⟩))
  exact Nat.add_le_add_left (Nat.min_le_right ..) _

/-- Outside ECCW the symbol leaves BUF alone (R375). -/
theorem readByte_assembleSymbol_of_not_inRange {data : List Byte} {q : QrTables}
    (h : ¬ inRange a (0x4000, eccTotal (curRow s q))) : readByte (assembleSymbol data s q) a = readByte s a :=
  (readByte_assembleSymbol ..).trans (if_neg h)

/-- The bytes ENC stores when it completes are those of the version it selects (R288). -/
theorem encBytes_of_select {e m v total : Nat} {l : Level} {md : Mode} {segs : List Segment} (hl : levelOf? e = some l)
    (hm : modeOf? m = some md) (hv : selectVersion l md (payloadOf s) = some (v, total, segs)) :
    encBytes e m s = dataTotal (blockRow v l) := by
  simp [encBytes, hl, hm, hv]

theorem encvBytes_of_level {e : Nat} {l : Level} (v : Nat) (hl : levelOf? e = some l) :
    encvBytes v e = dataTotal (blockRow v l) := by
  simp [encvBytes, hl]

/-- A byte outside the ranges stored to keeps its value: what the obligation says of a command, for one state after. -/
def KeepsOutside (i : Instr) (s t : State) : Prop :=
  ∀ a, (∀ r ∈ stored s i, ¬ inRange a r) → readByte t a = readByte s a

variable {t : State}

/-- A command that does not write BUF. -/
theorem keepsOutside_of_mem {i : Instr} (hmem : t.mem = s.mem) (hresets : t.resets = s.resets) : KeepsOutside i s t :=
  fun a _ => readByte_congr hmem hresets a

theorem keepsOutside_enc {e m : Nat} (h : execEnc e m s = .next t) : KeepsOutside (.enc e m) s t := by
  obtain ⟨code, info, -, rfl⟩ | ⟨l, md, v, total, segs, hl, hm, -, hunfit, hselect, rfl⟩ := execEnc_next h
  · exact keepsOutside_of_mem rfl rfl
  · intro a ha
    obtain ⟨-, -, hle, hseg⟩ := selectVersion_some hselect
    have hlen := finalStream_length padFill l hunfit (v := v) (by rwa [hseg])
    rw [hseg] at hlen
    exact readByte_placeStream_of_not_inRange hlen (encBytes_of_select hl hm hselect ▸ ha _ (.head _))

theorem keepsOutside_encv {v e m : Nat} (h : execEncv v e m s = .next t) : KeepsOutside (.encv v e m) s t := by
  obtain ⟨code, info, -, rfl⟩ | ⟨l, md, -, -, hl, -, -, hunfit, hle, rfl⟩ := execEncv_next h
  · exact keepsOutside_of_mem rfl rfl
  · exact fun a ha => readByte_placeStream_of_not_inRange (finalStream_length padFill l hunfit hle)
      (encvBytes_of_level v hl ▸ ha _ (.head _))

theorem keepsOutside_solveblk {k : Nat} {raw : Bool} (h : execSolveblk k raw s = .next t) :
    KeepsOutside (.solveblk k raw) s t := by
  unfold execSolveblk at h
  cases raw with
  | true =>
    obtain ⟨code, info, -, rfl⟩ | ⟨-, -, -, -, -, rfl⟩ := solveRaw_next h
    · exact keepsOutside_of_mem rfl rfl
    · intro a ha
      refine readByte_placeSolution_of_not_inRange ?_ (ha _ (.tail _ (.head _)))
      simpa [rawTemplate] using ha _ (.head _)
  | false =>
    obtain ⟨code, info, -, rfl⟩ | ⟨-, -, -, hlen0, -, -, rfl⟩ := solveLayoutBlock_next h
    · exact keepsOutside_of_mem rfl rfl
    · intro a ha
      have hdata := readByte_writeBuf_of_not_inRange (s := s) (b := .data)
        (vs := packBytes (solveTemplate (Config.draw s.draws) (blockTemplate k s)).bits)
        (by simp [blockTemplate, rawTemplate, dataLabels, hlen0]) (ha _ (.tail _ (.tail _ (.head _))))
      refine (readByte_placeSolution_of_not_inRange ?_ (ha _ (.tail _ (.head _)))).trans hdata
      simpa [blockTemplate] using ha _ (.head _)

theorem keepsOutside_build (h : execBuild s = .next t) : KeepsOutside .build s t := by
  obtain ⟨code, info, -, rfl⟩ | ⟨-, -, -, rfl⟩ := execBuild_next h
  · exact keepsOutside_of_mem rfl rfl
  · intro a ha
    refine (readByte_assembleSymbol_of_not_inRange ?_).trans
      (readByte_writeBuf_of_not_inRange (readBuf_length ..) (ha _ (.head _)))
    rw [curRow_writeBuf]
    exact ha _ (.tail _ (.head _))

theorem keepsOutside_assemble (h : execAssemble s = .next t) : KeepsOutside .assemble s t := by
  obtain ⟨code, info, -, rfl⟩ | ⟨-, -, rfl⟩ := execAssemble_next h
  · exact keepsOutside_of_mem rfl rfl
  · exact fun a ha => readByte_assembleSymbol_of_not_inRange (ha _ (.head _))

/-- Whatever the command, it stores inside its ranges (R67, R404). -/
theorem keepsOutside_of_exec {i : Instr} (h : exec i s = .next t) : KeepsOutside i s t := by
  cases i with
  | nop => exact execNop_next h ▸ keepsOutside_of_mem rfl rfl
  | clrf => exact execClrf_next h ▸ keepsOutside_of_mem rfl rfl
  | gfadd a b => exact execGfadd_next h ▸ keepsOutside_of_mem rfl rfl
  | gfmul a b => exact execGfmul_next h ▸ keepsOutside_of_mem rfl rfl
  | gfexp n => exact execGfexp_next h ▸ keepsOutside_of_mem rfl rfl
  | gflog a => exact execGflog_next h ▸ keepsOutside_of_mem rfl rfl
  | gfrow c =>
    exact execGfrow_next h ▸ fun a ha => readByte_writeBuf_of_not_inRange (gfRow_length c) (ha _ (.head _))
  | gfgen d =>
    obtain ⟨-, rfl⟩ | ⟨-, -, rfl⟩ := execGfgen_next h
    · exact keepsOutside_of_mem rfl rfl
    · exact fun a ha => readByte_writeBuf_of_not_inRange (gfGen_length d) (ha _ (.head _))
  | rsenc len e =>
    obtain ⟨-, rfl⟩ | ⟨-, rfl⟩ := execRsenc_next h
    · exact keepsOutside_of_mem rfl rfl
    · exact fun a ha => readByte_writeBuf_of_not_inRange (rs_length _ e) (ha _ (.head _))
  | rsbit b p e =>
    obtain ⟨-, rfl⟩ | ⟨-, -, rfl⟩ | ⟨-, -, rfl⟩ := execRsbit_next h
    · exact keepsOutside_of_mem rfl rfl
    · exact keepsOutside_of_mem rfl rfl
    · exact fun a ha => readByte_writeBuf_of_not_inRange (sbc_length b p e) (ha _ (.head _))
  | layout v e =>
    obtain ⟨-, rfl⟩ | ⟨-, -, -, rfl⟩ | ⟨-, -, l, -, rfl⟩ := execLayout_next h <;> exact keepsOutside_of_mem rfl rfl
  | setmask m => obtain ⟨-, rfl⟩ | ⟨-, rfl⟩ := execSetmask_next h <;> exact keepsOutside_of_mem rfl rfl
  | cell x y => obtain ⟨_, _, -, rfl⟩ | ⟨-, -, -, rfl⟩ := execCell_next h <;> exact keepsOutside_of_mem rfl rfl
  | maskbit x y => obtain ⟨_, _, -, rfl⟩ | ⟨-, -, -, -, rfl⟩ := execMaskbit_next h <;> exact keepsOutside_of_mem rfl rfl
  | fmtinfo => obtain ⟨_, _, -, rfl⟩ | ⟨-, -, rfl⟩ := execFmtinfo_next h <;> exact keepsOutside_of_mem rfl rfl
  | verinfo => obtain ⟨_, _, -, rfl⟩ | ⟨-, rfl⟩ := execVerinfo_next h <;> exact keepsOutside_of_mem rfl rfl
  | blkinfo k => obtain ⟨_, _, -, rfl⟩ | ⟨-, -, rfl⟩ := execBlkinfo_next h <;> exact keepsOutside_of_mem rfl rfl
  | capinfo => obtain ⟨_, _, -, rfl⟩ | ⟨-, rfl⟩ := execCapinfo_next h <;> exact keepsOutside_of_mem rfl rfl
  | enc e m => exact keepsOutside_enc h
  | encv v e m => exact keepsOutside_encv h
  | solveblk k raw => exact keepsOutside_solveblk h
  | build => exact keepsOutside_build h
  | assemble => exact keepsOutside_assemble h
  | get x y => obtain ⟨_, _, -, rfl⟩ | ⟨-, -, -, rfl⟩ := execGet_next h <;> exact keepsOutside_of_mem rfl rfl
  | size => obtain ⟨_, _, -, rfl⟩ | ⟨-, rfl⟩ := execSize_next h <;> exact keepsOutside_of_mem rfl rfl

/-- Settles O16, command by command from what each can leave. -/
theorem commandsStoreOnlyWhatTheyName : Obligations.CommandsStoreOnlyWhatTheyName := by
  unfold Obligations.CommandsStoreOnlyWhatTheyName
  exact fun i s t a h ha => keepsOutside_of_exec h a ha

end Sys2Proof.Proofs
end

section
/-! What a command reads: two states that agree on the stores R67 lists as read leave it with the same STATUS and the same
values in all it writes. -/

namespace Sys2Proof.Proofs

open Sys2Proof Sys2Proof.Machine Sys2Proof.Claims

/-! Two outcomes side by side. -/

/-- The outcomes have the same STATUS, and if that is 0 their states are related. -/
def Alike (P : State → State → Prop) (r r' : Result) : Prop :=
  ∀ t t', r = .next t → r' = .next t' → t.status = t'.status ∧ (t.status = ⟨0, 0, 0⟩ → P t t')

section
variable {P : State → State → Prop} {s s' t t' : State}

theorem alike_takeFault (op : Byte) (code : FaultCode) (info : Nat) :
    Alike P (takeFault op code info s) (takeFault op code info s') := by
  intro t t' h h'
  obtain rfl := takeFault_next h
  obtain rfl := takeFault_next h'
  exact ⟨rfl, fun hclear => absurd hclear (raise_status_ne _ _ _ _)⟩

theorem alike_next (hstatus : t.status = t'.status) (h : P t t') : Alike P (.next t) (.next t') := by
  intro u u' hu hu'
  cases hu
  cases hu'
  exact ⟨hstatus, fun _ => h⟩

/-- Both outcomes behind the same check. -/
theorem alike_guard {c : Prop} [Decidable c] {op : Byte} {code : FaultCode} {info : Nat} {r r' : Result} (h : Alike P r r') :
    Alike P (if c then takeFault op code info s else r) (if c then takeFault op code info s' else r') := by
  split_ifs
  · exact alike_takeFault op code info
  · exact h

end

/-! The same bytes and the same symbol written to both states. -/

section
variable {s s' : State} {a : Nat}

theorem curRow_congr (hcfg : s.cfg = s'.cfg) {q : QrTables} : curRow s q = curRow s' q := by
  simp only [curRow, curVersion, hcfg]

theorem curSide_congr (hcfg : s.cfg = s'.cfg) : curSide s = curSide s' := by
  simp only [curSide, curVersion, hcfg]

theorem readByte_writeBuf_congr {b : Buffer} {o : Nat} {vs : List Byte} (h : inRange a (b.base + o, vs.length)) :
    readByte (writeBuf b o vs s) a = readByte (writeBuf b o vs s') a := by
  rw [readByte_writeBuf, readByte_writeBuf]
  exact (if_pos h).trans (if_pos h).symm

theorem readByte_placeStream_congr {pad : PadFill} {v total : Nat} {l : Level} {payload : List Byte} {segs : List Segment}
    (hlen : (finalStream pad v l payload total segs).length = capBits v l) (h : inRange a (0x2000, dataTotal (blockRow v l))) :
    readByte (placeStream pad v l payload total segs s) a = readByte (placeStream pad v l payload total segs s') a := by
  rw [readByte_placeStream, readByte_placeStream, hlen, capBits, Nat.mul_div_cancel_left _ (by decide)]
  exact (if_pos h).trans (if_pos h).symm

theorem readByte_placeSolution_congr {p : Template} {sol : Solution} (hlen : sol.bits.length = p.md.length)
    (h : inRange a (0x5C00, p.md.length) ∨ inRange a (0x5100, p.eccCw) ∨ readByte s a = readByte s' a) :
    readByte (placeSolution p sol s) a = readByte (placeSolution p sol s') a := by
  rw [readByte_placeSolution, readByte_placeSolution, hlen, Nat.min_self]
  split_ifs with hecc hout
  · rfl
  · rfl
  · exact (h.resolve_left hout).resolve_left hecc

theorem readByte_assembleSymbol_congr {data : List Byte} {q : QrTables} (hcfg : s.cfg = s'.cfg)
    (h : inRange a (0x4000, eccTotal (curRow s q)) ∨ readByte s a = readByte s' a) :
    readByte (assembleSymbol data s q) a = readByte (assembleSymbol data s' q) a := by
  rw [readByte_assembleSymbol, readByte_assembleSymbol, ← curRow_congr hcfg]
  split_ifs with hecc
  · rfl
  · exact h.resolve_left hecc

theorem gridBit_assembleSymbol_congr {data : List Byte} {q : QrTables} (hcfg : s.cfg = s'.cfg) {n : Nat}
    (h : n < curSide s * curSide s) : gridBit (assembleSymbol data s q) n = gridBit (assembleSymbol data s' q) n := by
  rw [gridBit_assembleSymbol, gridBit_assembleSymbol, ← curSide_congr hcfg, if_pos h, if_pos h, curRow_congr hcfg]
  simp only [curVersion, curMask, hcfg]

end

/-! Agreement in what a command writes, for each group of commands. -/

section
variable {i : Instr} {s u u' : State}

/-- The commands that write no register but R0. -/
theorem writesAgree_of_r0 (hi : (writesR12 i || writesBlen i || isLayout i || isSetmask i || writesGrid i) = false)
    (hr0 : writesR0 i = true → u.r0 = u'.r0) (hbytes : ∀ r ∈ stored s i, ∀ a, inRange a r → readByte u a = readByte u' a) :
    WritesAgree i s u u' := by
  simp only [Bool.or_eq_false_iff] at hi
  obtain ⟨⟨⟨⟨hr12, hblen⟩, hlayout⟩, hmask⟩, hgrid⟩ := hi
  exact
    { r0 := hr0
      r12 := by simp [hr12]
      blen := by simp [hblen]
      layout := by simp [hlayout]
      mask := by simp [hmask]
      grid := by simp [hgrid]
      bytes := hbytes }

/-- The commands that write a buffer from its start, and R0. -/
theorem writesAgree_of_writeBuf (hi : (writesR12 i || writesBlen i || isLayout i || isSetmask i || writesGrid i) = false)
    {b : Buffer} {vs : List Byte} (hstored : stored s i = [(b.base, vs.length)]) (n : Nat) (s' : State) :
    WritesAgree i s (setR0 n (writeBuf b 0 vs s)) (setR0 n (writeBuf b 0 vs s')) := by
  refine writesAgree_of_r0 hi (fun _ => rfl) fun r hr a ha => ?_
  rw [hstored, List.mem_singleton] at hr
  exact readByte_writeBuf_congr (o := 0) (hr ▸ ha)

/-- The commands that write the three result registers and no byte. -/
theorem writesAgree_setR012 (hi : (writesBlen i || isLayout i || isSetmask i || writesGrid i) = false)
    (hstored : stored s i = []) (n0 n1 n2 : Nat) (s' : State) : WritesAgree i s (setR012 n0 n1 n2 s) (setR012 n0 n1 n2 s') := by
  simp only [Bool.or_eq_false_iff] at hi
  obtain ⟨⟨⟨hblen, hlayout⟩, hmask⟩, hgrid⟩ := hi
  exact
    { r0 := fun _ => rfl
      r12 := fun _ => ⟨rfl, rfl⟩
      blen := by simp [hblen]
      layout := by simp [hlayout]
      mask := by simp [hmask]
      grid := by simp [hgrid]
      bytes := by simp [hstored] }

/-- ENC and ENCV, for a stream that fills the capacity. -/
theorem writesAgree_placeStream (hi : (isLayout i || isSetmask i || writesGrid i) = false) {pad : PadFill} {v total : Nat}
    {l : Level} {payload : List Byte} {segs : List Segment}
    (hstored : stored s i = [(0x2000, dataTotal (blockRow v l))])
    (hlen : (finalStream pad v l payload total segs).length = capBits v l) (s' : State) :
    WritesAgree i s (placeStream pad v l payload total segs s) (placeStream pad v l payload total segs s') := by
  simp only [Bool.or_eq_false_iff] at hi
  obtain ⟨⟨hlayout, hmask⟩, hgrid⟩ := hi
  exact
    { r0 := fun _ => rfl
      r12 := fun _ => ⟨rfl, rfl⟩
      blen := fun _ => rfl
      layout := by simp [hlayout]
      mask := by simp [hmask]
      grid := by simp [hgrid]
      bytes := fun r hr a ha => by
        rw [hstored, List.mem_singleton] at hr
        exact readByte_placeStream_congr hlen (hr ▸ ha) }

/-- Both forms of SOLVEBLK, after what each has written to DATA. -/
theorem writesAgree_placeSolution {k : Nat} {raw : Bool} {p : Template} {sol : Solution}
    (hlen : sol.bits.length = p.md.length)
    (hbytes : ∀ r ∈ stored s (.solveblk k raw), ∀ a, inRange a r →
      inRange a (0x5C00, p.md.length) ∨ inRange a (0x5100, p.eccCw) ∨ readByte u a = readByte u' a) :
    WritesAgree (.solveblk k raw) s (placeSolution p sol u) (placeSolution p sol u') where
  r0 _ := rfl
  r12 _ := ⟨rfl, rfl⟩
  blen := nofun
  layout := nofun
  mask := nofun
  grid := nofun
  bytes r hr a ha := readByte_placeSolution_congr hlen (hbytes r hr a ha)

/-- BUILD and ASSEMBLE, after what BUILD has written to DATA. -/
theorem writesAgree_assembleSymbol (hi : (writesR12 i || writesBlen i || isLayout i || isSetmask i) = false)
    (hcfg : u.cfg = u'.cfg) (hside : curSide u = curSide s) {data : List Byte}
    (hbytes : ∀ r ∈ stored s i, ∀ a, inRange a r → inRange a (0x4000, eccTotal (curRow u)) ∨ readByte u a = readByte u' a) :
    WritesAgree i s (assembleSymbol data u) (assembleSymbol data u') := by
  simp only [Bool.or_eq_false_iff] at hi
  obtain ⟨⟨⟨hr12, hblen⟩, hlayout⟩, hmask⟩ := hi
  exact
    { r0 := fun _ => congrArg word (curSide_congr hcfg)
      r12 := by simp [hr12]
      blen := by simp [hblen]
      layout := by simp [hlayout]
      mask := by simp [hmask]
      grid := fun _ => ⟨rfl, fun n hn => gridBit_assembleSymbol_congr hcfg (by rwa [hside])⟩
      bytes := fun r hr a ha => readByte_assembleSymbol_congr hcfg (hbytes r hr a ha) }

end

/-! Command by command. -/

section
variable {s s' : State}

theorem readBuf_of_agree {b : Buffer} {n : Nat} (h : ∀ a, inRange a (b.base, n) → readByte s a = readByte s' a) :
    readBuf b n s = readBuf b n s' :=
  List.map_congr_left fun _ hi => h _ ⟨Nat.le_add_right _ _, Nat.add_lt_add_left (List.mem_range.mp hi) _⟩

/-- The command leaves the two states with the same STATUS and the same values in what it writes. -/
def RunsAlike (i : Instr) (s s' : State) : Prop := Alike (WritesAgree i s) (exec i s) (exec i s')

theorem runsAlike_gfgen {d : Nat} (h : ReadsAgree (.gfgen d) s s') : RunsAlike (.gfgen d) s s' :=
  alike_guard (alike_next (by simpa using h.status) (writesAgree_of_writeBuf rfl (by simp [stored, Buffer.base]) d s'))

theorem runsAlike_rsenc {len e : Nat} (h : ReadsAgree (.rsenc len e) s s') : RunsAlike (.rsenc len e) s s' := by
  have hmsg : readBuf .msg len s = readBuf .msg len s' := readBuf_of_agree (h.bytes _ (.head _))
  simp only [RunsAlike, exec, execRsenc, rsencWithin, ← hmsg]
  split_ifs
  · exact alike_next (by simpa using h.status) (writesAgree_of_writeBuf rfl (by simp [stored, Buffer.base]) e s')
  · exact alike_takeFault _ _ _

theorem runsAlike_rsbit {b p e : Nat} (h : ReadsAgree (.rsbit b p e) s s') : RunsAlike (.rsbit b p e) s s' := by
  refine alike_guard ?_
  split_ifs
  · exact alike_next (by simpa using h.status) (writesAgree_of_writeBuf rfl (by simp [stored, Buffer.base]) e s')
  · exact alike_takeFault _ _ _

theorem runsAlike_layout {v e : Nat} (h : ReadsAgree (.layout v e) s s') : RunsAlike (.layout v e) s s' := by
  refine alike_guard ?_
  cases levelOf? e with
  | none => exact alike_takeFault _ _ _
  | some l => exact alike_next h.status ⟨nofun, nofun, nofun, fun _ => ⟨rfl, rfl, rfl, rfl⟩, nofun, nofun, nofun⟩

theorem runsAlike_setmask {m : Nat} (h : ReadsAgree (.setmask m) s s') : RunsAlike (.setmask m) s s' :=
  alike_guard (alike_next h.status ⟨nofun, nofun, nofun, nofun, fun _ => ⟨rfl, rfl⟩, nofun, nofun⟩)

theorem runsAlike_cell {x y : Nat} (h : ReadsAgree (.cell x y) s s') : RunsAlike (.cell x y) s s' := by
  simp only [RunsAlike, exec, execCell, cellUnder, curSide, curCell, curVersion, ← h.cfg rfl]
  exact alike_guard (alike_guard (alike_guard (alike_next h.status (writesAgree_setR012 rfl rfl ..))))

theorem runsAlike_maskbit {x y : Nat} (h : ReadsAgree (.maskbit x y) s s') : RunsAlike (.maskbit x y) s s' := by
  simp only [RunsAlike, exec, execMaskbit, maskbitUnder, curSide, curVersion, curMask, ← h.cfg rfl]
  exact alike_guard (alike_guard (alike_guard (alike_guard
    (alike_next h.status (writesAgree_of_r0 rfl (fun _ => rfl) nofun)))))

theorem runsAlike_fmtinfo (h : ReadsAgree .fmtinfo s s') : RunsAlike .fmtinfo s s' := by
  simp only [RunsAlike, exec, execFmtinfo, curMask, ← h.cfg rfl]
  exact alike_guard (alike_guard (alike_next h.status (writesAgree_of_r0 rfl (fun _ => rfl) nofun)))

theorem runsAlike_verinfo (h : ReadsAgree .verinfo s s') : RunsAlike .verinfo s s' := by
  simp only [RunsAlike, exec, execVerinfo, curVersion, ← h.cfg rfl]
  exact alike_guard (alike_next h.status (writesAgree_of_r0 rfl (fun _ => rfl) nofun))

theorem runsAlike_blkinfo {k : Nat} (h : ReadsAgree (.blkinfo k) s s') : RunsAlike (.blkinfo k) s s' := by
  simp only [RunsAlike, exec, execBlkinfo, blkinfoUnder, curRow, curVersion, ← h.cfg rfl]
  exact alike_guard (alike_guard (alike_next h.status (writesAgree_setR012 rfl rfl ..)))

theorem runsAlike_capinfo (h : ReadsAgree .capinfo s s') : RunsAlike .capinfo s s' := by
  simp only [RunsAlike, exec, execCapinfo, capinfoUnder, curRow, curVersion, ← h.cfg rfl]
  exact alike_guard (alike_next h.status (writesAgree_setR012 rfl rfl ..))

theorem payloadOf_of_agree (hlen0 : s.len0 = s'.len0)
    (h : ∀ a, inRange a (0x0000, s.len0.toNat) → readByte s a = readByte s' a) : payloadOf s = payloadOf s' := by
  rw [payloadOf, payloadOf, ← hlen0]
  exact readBuf_of_agree (b := .pay) h

theorem runsAlike_enc {e m : Nat} (h : ReadsAgree (.enc e m) s s') : RunsAlike (.enc e m) s s' := by
  have hpay := payloadOf_of_agree (h.len0 rfl) (h.bytes _ (.head _))
  simp only [RunsAlike, exec, execEnc, encFilling, payloadTooLong, ← hpay, ← h.len0 rfl]
  cases hl : levelOf? e with
  | none => exact alike_takeFault _ _ _
  | some l =>
  cases hm : modeOf? m with
  | none => exact alike_takeFault _ _ _
  | some md =>
  refine alike_guard ?_
  cases hunfit : firstUnfit md (payloadOf s) with
  | some n => exact alike_takeFault _ _ _
  | none =>
  cases hselect : selectVersion l md (payloadOf s) with
  | none => exact alike_takeFault _ _ _
  | some best =>
    obtain ⟨v, total, segs⟩ := best
    obtain ⟨-, -, hle, hseg⟩ := selectVersion_some hselect
    have hlen := finalStream_length padFill l hunfit (v := v) (by rwa [hseg])
    rw [hseg] at hlen
    exact alike_next (by simpa using h.status)
      (writesAgree_placeStream rfl (by rw [stored, encBytes_of_select hl hm hselect]) hlen s')

theorem runsAlike_encv {v e m : Nat} (h : ReadsAgree (.encv v e m) s s') : RunsAlike (.encv v e m) s s' := by
  have hpay := payloadOf_of_agree (h.len0 rfl) (h.bytes _ (.head _))
  simp only [RunsAlike, exec, execEncv, encvFilling, payloadTooLong, ← hpay, ← h.len0 rfl]
  refine alike_guard ?_
  cases hl : levelOf? e with
  | none => exact alike_takeFault _ _ _
  | some l =>
  cases modeOf? m with
  | none => exact alike_takeFault _ _ _
  | some md =>
  refine alike_guard ?_
  cases hunfit : firstUnfit md (payloadOf s) with
  | some n => exact alike_takeFault _ _ _
  | none =>
    dsimp only
    split_ifs with hle
    · exact alike_takeFault _ _ _
    · exact alike_next (by simpa using h.status) (writesAgree_placeStream rfl (by rw [stored, encvBytes_of_level v hl])
        (finalStream_length padFill l hunfit (Nat.not_lt.mp hle)) s')

/-- States that agree on the label lengths and bytes give the solver the same labels and the same check of them. -/
theorem rawTemplate_of_agree {k : Nat} {raw : Bool} (h : ReadsAgree (.solveblk k raw) s s') :
    rawTemplate s = rawTemplate s' ∧ badLabel s = badLabel s' := by
  have htd : dataLabels s = dataLabels s' := by
    rw [dataLabels, dataLabels, ← h.len0 rfl]
    exact readBuf_of_agree (h.bytes _ (.head _))
  have hte : eccLabels s = eccLabels s' := by
    rw [eccLabels, eccLabels, ← h.len1 rfl]
    exact readBuf_of_agree (h.bytes _ (.tail _ (.head _)))
  simp only [rawTemplate, badLabel, htd, hte, h.len0 rfl, h.len1 rfl, and_self]

theorem blockTemplate_of_agree {k : Nat} (h : ReadsAgree (.solveblk k false) s s') : blockTemplate k s = blockTemplate k s' := by
  simp only [blockTemplate, ownerMaskBits, curVersion, curMask, (rawTemplate_of_agree h).1, h.len0 rfl, h.len1 rfl, h.cfg rfl]

theorem runsAlike_solveblk_raw {k : Nat} (h : ReadsAgree (.solveblk k true) s s') : RunsAlike (.solveblk k true) s s' := by
  obtain ⟨htemplate, hlabel⟩ := rawTemplate_of_agree h
  simp only [RunsAlike, exec, execSolveblk, if_true, solveRaw, ← htemplate, ← hlabel, ← h.len0 rfl, ← h.len1 rfl,
    ← h.draw rfl]
  refine alike_guard (alike_guard (alike_guard (alike_guard ?_)))
  cases badLabel s with
  | some n => exact alike_takeFault _ _ _
  | none =>
    refine alike_next (by simpa using h.status)
      (writesAgree_placeSolution (by simp [rawTemplate, dataLabels]) fun r hr a ha => ?_)
    simp only [stored, if_true, List.append_nil, List.mem_cons, List.not_mem_nil, or_false] at hr
    obtain rfl | rfl := hr
    · exact .inl (by simpa [rawTemplate] using ha)
    · exact .inr (.inl ha)

theorem runsAlike_solveblk_block {k : Nat} (h : ReadsAgree (.solveblk k false) s s') :
    RunsAlike (.solveblk k false) s s' := by
  obtain ⟨-, hlabel⟩ := rawTemplate_of_agree h
  simp only [RunsAlike, exec, execSolveblk, Bool.false_eq_true, if_false, solveLayoutBlock, ← blockTemplate_of_agree h,
    ← hlabel, ← curRow_congr (h.cfg rfl), ← h.cfg rfl, ← h.len0 rfl, ← h.len1 rfl, ← h.draw rfl]
  refine alike_guard (alike_guard (alike_guard ?_))
  split_ifs with hlen0 hlen1
  · exact alike_takeFault _ _ _
  · exact alike_takeFault _ _ _
  cases badLabel s with
  | some n => exact alike_takeFault _ _ _
  | none =>
    refine alike_next (by simpa using h.status) (writesAgree_placeSolution (by simp [blockTemplate, rawTemplate, dataLabels])
      fun r hr a ha => ?_)
    simp only [stored, Bool.false_eq_true, if_false, List.cons_append, List.nil_append, List.mem_cons, List.not_mem_nil,
      or_false] at hr
    obtain rfl | rfl | rfl := hr
    · exact .inl (by simpa [blockTemplate] using ha)
    · exact .inr (.inl ha)
    · refine .inr (.inr (readByte_writeBuf_congr ?_))
      simpa [blockTemplate, rawTemplate, dataLabels, not_not.mp hlen0, Buffer.base] using ha

theorem runsAlike_build (h : ReadsAgree .build s s') : RunsAlike .build s s' := by
  have hdata : readBuf .bits (dataTotal (curRow s)) s = readBuf .bits (dataTotal (curRow s)) s' :=
    readBuf_of_agree (h.bytes _ (.head _))
  simp only [RunsAlike, exec, execBuild, buildUnder, ← curRow_congr (h.cfg rfl), ← hdata, ← h.cfg rfl, ← h.blen rfl]
  refine alike_guard (alike_guard (alike_guard (alike_next (by simpa using h.status) (writesAgree_assembleSymbol rfl
    (by simpa using h.cfg rfl) (curSide_writeBuf ..) fun r hr a ha => ?_))))
  simp only [stored, List.mem_cons, List.not_mem_nil, or_false] at hr
  obtain rfl | rfl := hr
  · exact .inr (readByte_writeBuf_congr (by rwa [readBuf_length]))
  · exact .inl (by rwa [curRow_writeBuf])

theorem runsAlike_assemble (h : ReadsAgree .assemble s s') : RunsAlike .assemble s s' := by
  have hdata : readBuf .data (dataTotal (curRow s)) s = readBuf .data (dataTotal (curRow s)) s' :=
    readBuf_of_agree (h.bytes _ (.head _))
  simp only [RunsAlike, exec, execAssemble, assembleUnder, ← curRow_congr (h.cfg rfl), ← hdata, ← h.cfg rfl]
  exact alike_guard (alike_guard (alike_next (by simpa using h.status) (writesAgree_assembleSymbol rfl (h.cfg rfl) rfl
    fun r hr a ha => .inl (List.mem_singleton.mp hr ▸ ha))))

theorem runsAlike_get {x y : Nat} (h : ReadsAgree (.get x y) s s') : RunsAlike (.get x y) s s' := by
  simp only [RunsAlike, exec, execGet, curSide, curVersion, ← h.cfg rfl, ← h.grid x y rfl]
  exact alike_guard (alike_guard (alike_guard (alike_next h.status (writesAgree_of_r0 rfl (fun _ => rfl) nofun))))

theorem runsAlike_size (h : ReadsAgree .size s s') : RunsAlike .size s s' := by
  simp only [RunsAlike, exec, execSize, curSide, curVersion, ← h.cfg rfl]
  exact alike_guard (alike_next h.status (writesAgree_of_r0 rfl (fun _ => rfl) nofun))

/-- Every command runs alike in states that agree on what it reads (R67). -/
theorem runsAlike_of_readsAgree {i : Instr} (h : ReadsAgree i s s') : RunsAlike i s s' := by
  cases i with
  | nop => exact alike_next h.status (writesAgree_of_r0 rfl nofun nofun)
  | clrf => exact alike_next rfl (writesAgree_of_r0 rfl nofun nofun)
  | gfadd a b => exact alike_next h.status (writesAgree_of_r0 rfl (fun _ => rfl) nofun)
  | gfmul a b => exact alike_next h.status (writesAgree_of_r0 rfl (fun _ => rfl) nofun)
  | gfexp n => exact alike_next h.status (writesAgree_of_r0 rfl (fun _ => rfl) nofun)
  | gflog a => exact alike_next h.status (writesAgree_of_r0 rfl (fun _ => rfl) nofun)
  | gfrow c =>
    refine alike_next (by simpa using h.status) (writesAgree_of_r0 rfl nofun fun r hr a ha => readByte_writeBuf_congr ?_)
    rw [gfRow_length]
    exact List.mem_singleton.mp hr ▸ ha
  | gfgen d => exact runsAlike_gfgen h
  | rsenc len e => exact runsAlike_rsenc h
  | rsbit b p e => exact runsAlike_rsbit h
  | layout v e => exact runsAlike_layout h
  | setmask m => exact runsAlike_setmask h
  | cell x y => exact runsAlike_cell h
  | maskbit x y => exact runsAlike_maskbit h
  | fmtinfo => exact runsAlike_fmtinfo h
  | verinfo => exact runsAlike_verinfo h
  | blkinfo k => exact runsAlike_blkinfo h
  | capinfo => exact runsAlike_capinfo h
  | enc e m => exact runsAlike_enc h
  | encv v e m => exact runsAlike_encv h
  | solveblk k raw =>
    cases raw with
    | true => exact runsAlike_solveblk_raw h
    | false => exact runsAlike_solveblk_block h
  | build => exact runsAlike_build h
  | assemble => exact runsAlike_assemble h
  | get x y => exact runsAlike_get h
  | size => exact runsAlike_size h

end

/-- Settles O18, command by command: each check and each value written depends on what both states share. -/
theorem commandsReadOnlyWhatTheyName : Obligations.CommandsReadOnlyWhatTheyName := by
  unfold Obligations.CommandsReadOnlyWhatTheyName
  exact fun i s s' t t' hreads _ h h' => runsAlike_of_readsAgree hreads t t' h h'

end Sys2Proof.Proofs
end

section
/-! The command word: its four fields, the operands in them, and the round trip of an instruction through its word (R91,
R92). -/

namespace Sys2Proof.Proofs

open Sys2Proof

@[simp] theorem fieldA_packFields (op a b c : Byte) : fieldA (packFields op a b c) = a := by
  rw [fieldA, packFields, BitVec.extractLsb'_append_eq_of_le (by decide), BitVec.extractLsb'_append_eq_of_add_le (by decide),
    BitVec.extractLsb'_eq_self]

@[simp] theorem fieldB_packFields (op a b c : Byte) : fieldB (packFields op a b c) = b := by
  rw [fieldB, packFields, BitVec.extractLsb'_append_eq_of_le (by decide), BitVec.extractLsb'_append_eq_of_le (by decide),
    BitVec.extractLsb'_append_eq_of_add_le (by decide), BitVec.extractLsb'_eq_self]

@[simp] theorem fieldC_packFields (op a b c : Byte) : fieldC (packFields op a b c) = c := by
  rw [fieldC, packFields, BitVec.extractLsb'_append_eq_of_le (by decide), BitVec.extractLsb'_append_eq_of_le (by decide),
    BitVec.extractLsb'_append_eq_of_le (by decide), BitVec.extractLsb'_eq_self]

/-- A word is its four fields (R91). -/
theorem packFields_fields (w : Word) : packFields (fieldOp w) (fieldA w) (fieldB w) (fieldC w) = w := by
  refine BitVec.eq_of_getLsbD_eq fun i hi => ?_
  simp only [packFields, fieldOp, fieldA, fieldB, fieldC, BitVec.getLsbD_append, BitVec.getLsbD_extractLsb']
  grind

theorem packFields_inj {op a b c op' a' b' c' : Byte} :
    packFields op a b c = packFields op' a' b' c' ↔ op = op' ∧ a = a' ∧ b = b' ∧ c = c' := by
  refine ⟨fun h => ⟨?_, ?_, ?_, ?_⟩, fun ⟨hop, ha, hb, hc⟩ => by rw [hop, ha, hb, hc]⟩
  · simpa using congrArg fieldOp h
  · simpa using congrArg fieldA h
  · simpa using congrArg fieldB h
  · simpa using congrArg fieldC h

@[simp] theorem decode_packFields (op a b c : Byte) : decode (packFields op a b c) = decodeFields op a b c := by
  simp [decode]

@[simp] theorem operandField_toNat (a : Byte) : operandField a.toNat = a := BitVec.ofNat_toNat ..

@[simp] theorem fitsField_toNat (a : Byte) : fitsField a.toNat = true := decide_eq_true a.isLt

/-- An operand that fits its field is the value of a byte (R92). -/
theorem exists_byte_of_fitsField {n : Nat} (h : fitsField n = true) : ∃ a : Byte, a.toNat = n :=
  ⟨operandField n, Nat.mod_eq_of_lt (of_decide_eq_true h)⟩

/-- The c field of SOLVEBLK is its one flag, bit 0, when its other bits are 0 (R94). -/
theorem flagField_eq : ∀ c : Byte, c >>> 1 = 0#8 → (if (c)[0] = true then 1#8 else 0#8) = c := by decide

/-- The other bits of the c field of SOLVEBLK, as the decoder and as the table's mask check them (R94). -/
theorem and_fe_eq_zero_iff : ∀ c : Byte, c &&& 0xFE#8 = 0#8 ↔ c >>> 1 = 0#8 := by decide

theorem byte_and_ff (a : Byte) : a &&& 0xFF#8 = a := BitVec.and_allOnes

/-- Decoding gives back an instruction whose operands fit, shape by shape (R91, R92). -/
theorem decode_encode {i : Instr} (h : i.wellFormed = true) : decode (encode i) = .ok i := by
  cases i with
  | nop | clrf | fmtinfo | verinfo | capinfo | build | assemble | size => exact decode_packFields ..
  | gfadd a b | gfmul a b => exact decode_packFields ..
  | gflog a | gfrow a => exact decode_packFields ..
  | gfexp m | gfgen m | setmask m | blkinfo m =>
    obtain ⟨a, rfl⟩ := exists_byte_of_fitsField h
    simp only [encode, operandField_toNat, decode_packFields]
    rfl
  | rsenc m n | layout m n | cell m n | maskbit m n | enc m n | get m n =>
    obtain ⟨hm, hn⟩ := Bool.and_eq_true_iff.mp h
    obtain ⟨a, rfl⟩ := exists_byte_of_fitsField hm
    obtain ⟨b, rfl⟩ := exists_byte_of_fitsField hn
    simp only [encode, operandField_toNat, decode_packFields]
    rfl
  | rsbit m n k | encv m n k =>
    obtain ⟨hmn, hk⟩ := Bool.and_eq_true_iff.mp h
    obtain ⟨hm, hn⟩ := Bool.and_eq_true_iff.mp hmn
    obtain ⟨a, rfl⟩ := exists_byte_of_fitsField hm
    obtain ⟨b, rfl⟩ := exists_byte_of_fitsField hn
    obtain ⟨c, rfl⟩ := exists_byte_of_fitsField hk
    simp only [encode, operandField_toNat, decode_packFields]
    rfl
  | solveblk m raw =>
    obtain ⟨a, rfl⟩ := exists_byte_of_fitsField h
    simp only [encode, operandField_toNat, decode_packFields]
    cases raw <;> rfl

end Sys2Proof.Proofs
end

section
/-! The command table as data, and the decoder as its lookup (R94, R95): a row of the table is the format of a command, and
a word is the command exactly when its opcode byte is the row's and the fields the row's shape leaves unused are 0. -/

namespace Sys2Proof.Proofs

open Sys2Proof Sys2Proof.Machine Sys2Proof.Claims Sys2Proof.Laws

/-- The five operand shapes, named by the fields in use (R91). -/
inductive OperandShape where
  | Z | A | AB | ABC | AC

/-- The must-be-zero bits of a shape, field by field as the decoder checks them (R91, R95). -/
def OperandShape.unused : OperandShape → Byte → Byte → Byte → List Byte
  | .Z, a, b, c => [a, b, c]
  | .A, _, b, c => [b, c]
  | .AB, _, _, c => [c]
  | .ABC, _, _, _ => []
  | .AC, _, b, c => [b, c >>> 1]

/-- The column `mask` of the table: the opcode byte and the must-be-zero bits (R94). -/
def OperandShape.mask : OperandShape → Word
  | .Z => packFields 0xFF 0xFF 0xFF 0xFF
  | .A => packFields 0xFF 0x00 0xFF 0xFF
  | .AB => packFields 0xFF 0x00 0x00 0xFF
  | .ABC => packFields 0xFF 0x00 0x00 0x00
  | .AC => packFields 0xFF 0x00 0xFF 0xFE

/-- A command of the table: its mnemonic, its opcode, its shape, and the instruction its operand fields give (R94). -/
structure CommandFormat where
  mnemonic : String
  op : Byte
  shape : OperandShape
  instr : Byte → Byte → Byte → Instr

/-- The row of the command table. -/
def CommandFormat.row (f : CommandFormat) : TableRow := ⟨f.mnemonic, packFields f.op 0 0 0, f.shape.mask⟩

/-- The formats of the 25 commands (R94). -/
def commandFormats : List CommandFormat :=
  [⟨"NOP", opNop, .Z, fun _ _ _ => .nop⟩, ⟨"CLRF", opClrf, .Z, fun _ _ _ => .clrf⟩,
   ⟨"GFADD", opGfadd, .AB, fun a b _ => .gfadd a b⟩, ⟨"GFMUL", opGfmul, .AB, fun a b _ => .gfmul a b⟩,
   ⟨"GFEXP", opGfexp, .A, fun a _ _ => .gfexp a.toNat⟩, ⟨"GFLOG", opGflog, .A, fun a _ _ => .gflog a⟩,
   ⟨"GFROW", opGfrow, .A, fun a _ _ => .gfrow a⟩, ⟨"GFGEN", opGfgen, .A, fun a _ _ => .gfgen a.toNat⟩,
   ⟨"RSENC", opRsenc, .AB, fun a b _ => .rsenc a.toNat b.toNat⟩,
   ⟨"RSBIT", opRsbit, .ABC, fun a b c => .rsbit a.toNat b.toNat c.toNat⟩,
   ⟨"LAYOUT", opLayout, .AB, fun a b _ => .layout a.toNat b.toNat⟩,
   ⟨"SETMASK", opSetmask, .A, fun a _ _ => .setmask a.toNat⟩, ⟨"CELL", opCell, .AB, fun a b _ => .cell a.toNat b.toNat⟩,
   ⟨"MASKBIT", opMaskbit, .AB, fun a b _ => .maskbit a.toNat b.toNat⟩, ⟨"FMTINFO", opFmtinfo, .Z, fun _ _ _ => .fmtinfo⟩,
   ⟨"VERINFO", opVerinfo, .Z, fun _ _ _ => .verinfo⟩, ⟨"BLKINFO", opBlkinfo, .A, fun a _ _ => .blkinfo a.toNat⟩,
   ⟨"CAPINFO", opCapinfo, .Z, fun _ _ _ => .capinfo⟩, ⟨"ENC", opEnc, .AB, fun a b _ => .enc a.toNat b.toNat⟩,
   ⟨"ENCV", opEncv, .ABC, fun a b c => .encv a.toNat b.toNat c.toNat⟩,
   ⟨"SOLVEBLK", opSolveblk, .AC, fun a _ c => .solveblk a.toNat (c.getLsbD 0)⟩, ⟨"BUILD", opBuild, .Z, fun _ _ _ => .build⟩,
   ⟨"ASSEMBLE", opAssemble, .Z, fun _ _ _ => .assemble⟩, ⟨"GET", opGet, .AB, fun a b _ => .get a.toNat b.toNat⟩,
   ⟨"SIZE", opSize, .Z, fun _ _ _ => .size⟩]

theorem opcodeTable_eq : opcodeTable = commandFormats.map CommandFormat.row := by decide

theorem commandFormats_op_inj {f f' : CommandFormat} (hf : f ∈ commandFormats) (hf' : f' ∈ commandFormats) (h : f.op = f'.op) :
    f = f' :=
  List.inj_on_of_nodup_map (by decide : (commandFormats.map CommandFormat.op).Nodup) hf hf' h

theorem commandFormats_mnemonic_inj {f f' : CommandFormat} (hf : f ∈ commandFormats) (hf' : f' ∈ commandFormats)
    (h : f.mnemonic = f'.mnemonic) : f = f' :=
  List.inj_on_of_nodup_map (by decide : (commandFormats.map CommandFormat.mnemonic).Nodup) hf hf' h

/-! What each format gives. -/

theorem decodeFields_of_mem {f : CommandFormat} (hf : f ∈ commandFormats) (a b c : Byte) :
    decodeFields f.op a b c = whenZero f.op (f.shape.unused a b c) (f.instr a b c) := by
  fin_cases hf <;> rfl

theorem decodeFields_of_unlisted {op : Byte} (h : ∀ f ∈ commandFormats, op ≠ f.op) (a b c : Byte) :
    decodeFields op a b c = .error (.unlistedOpcode op) := by
  simp only [commandFormats, List.forall_mem_cons] at h
  simp [decodeFields, h]

theorem mnemonic_instr {f : CommandFormat} (hf : f ∈ commandFormats) (a b c : Byte) :
    (f.instr a b c).mnemonic = f.mnemonic := by
  fin_cases hf <;> rfl

theorem wellFormed_instr {f : CommandFormat} (hf : f ∈ commandFormats) (a b c : Byte) :
    (f.instr a b c).wellFormed = true := by
  fin_cases hf <;> simp [Instr.wellFormed]

theorem encode_instr {f : CommandFormat} (hf : f ∈ commandFormats) {a b c : Byte}
    (hzero : ∀ u ∈ f.shape.unused a b c, u = 0) : encode (f.instr a b c) = packFields f.op a b c := by
  fin_cases hf <;> simp_all [OperandShape.unused, encode, flagField_eq]

/-! The decoder, said once. -/

theorem whenZero_eq_ok {op : Byte} {unused : List Byte} {i j : Instr} :
    whenZero op unused i = .ok j ↔ (∀ u ∈ unused, u = 0) ∧ i = j := by
  have hall : unused.all (fun u => u == 0) = true ↔ ∀ u ∈ unused, u = 0 := by simp
  rw [← hall, whenZero]
  cases unused.all (fun u => u == 0) <;> simp

/-- A word decodes to an instruction exactly when it has the opcode of a format, its unused fields are 0, and its operand
fields give that instruction (R95). -/
theorem decode_eq_ok_iff {w : Word} {i : Instr} :
    decode w = .ok i ↔ ∃ f ∈ commandFormats, fieldOp w = f.op ∧
      (∀ u ∈ f.shape.unused (fieldA w) (fieldB w) (fieldC w), u = 0) ∧ f.instr (fieldA w) (fieldB w) (fieldC w) = i := by
  rw [decode]
  constructor
  · intro h
    by_cases hlisted : ∃ f ∈ commandFormats, fieldOp w = f.op
    · obtain ⟨f, hf, hop⟩ := hlisted
      rw [hop, decodeFields_of_mem hf, whenZero_eq_ok] at h
      exact ⟨f, hf, hop, h⟩
    · rw [decodeFields_of_unlisted fun f hf hop => hlisted ⟨f, hf, hop⟩] at h
      cases h
  · rintro ⟨f, hf, hop, h⟩
    rwa [hop, decodeFields_of_mem hf, whenZero_eq_ok]

/-! The decoder against the table (R94, R95). -/

/-- The mask of a shape keeps the opcode byte and the must-be-zero bits. -/
theorem and_mask_eq_iff (shape : OperandShape) (op op' a b c : Byte) :
    packFields op a b c &&& shape.mask = packFields op' 0 0 0 ↔ op = op' ∧ ∀ u ∈ shape.unused a b c, u = 0 := by
  cases shape <;>
    simp [OperandShape.mask, OperandShape.unused, packFields_and, packFields_inj, byte_and_ff, and_fe_eq_zero_iff]

/-- `w and mask = match` for a row of the table. -/
theorem and_row_mask_eq_iff (f : CommandFormat) (w : Word) :
    w &&& f.row.mask = f.row.pattern ↔
      fieldOp w = f.op ∧ ∀ u ∈ f.shape.unused (fieldA w) (fieldB w) (fieldC w), u = 0 := by
  rw [← and_mask_eq_iff, packFields_fields]
  rfl

/-- A word decodes to an instruction of a row's mnemonic exactly when `w and mask = match` for that row (R94). -/
theorem row_matches_iff_decode {r : TableRow} (hr : r ∈ opcodeTable) (w : Word) :
    w &&& r.mask = r.pattern ↔ ∃ i, decode w = .ok i ∧ i.mnemonic = r.mnemonic := by
  rw [opcodeTable_eq] at hr
  obtain ⟨f, hf, rfl⟩ := List.mem_map.mp hr
  rw [and_row_mask_eq_iff]
  constructor
  · rintro ⟨hop, hzero⟩
    exact ⟨_, decode_eq_ok_iff.mpr ⟨f, hf, hop, hzero, rfl⟩, mnemonic_instr hf ..⟩
  · rintro ⟨i, hdecode, hname⟩
    obtain ⟨f', hf', hop, hzero, rfl⟩ := decode_eq_ok_iff.mp hdecode
    obtain rfl := commandFormats_mnemonic_inj hf' hf ((mnemonic_instr hf' ..).symm.trans hname)
    exact ⟨hop, hzero⟩

/-- At most one row matches a word: the row of its opcode byte (R94). -/
theorem row_unique {r r' : TableRow} (hr : r ∈ opcodeTable) (hr' : r' ∈ opcodeTable) {w : Word}
    (h : w &&& r.mask = r.pattern) (h' : w &&& r'.mask = r'.pattern) : r = r' := by
  rw [opcodeTable_eq] at hr hr'
  obtain ⟨f, hf, rfl⟩ := List.mem_map.mp hr
  obtain ⟨f', hf', rfl⟩ := List.mem_map.mp hr'
  obtain ⟨hop, -⟩ := (and_row_mask_eq_iff f w).mp h
  obtain ⟨hop', -⟩ := (and_row_mask_eq_iff f' w).mp h'
  rw [commandFormats_op_inj hf hf' (hop.symm.trans hop')]

/-- Every command is named in the table. -/
theorem exists_row_of_decode {w : Word} {i : Instr} (h : decode w = .ok i) : ∃ r ∈ opcodeTable, i.mnemonic = r.mnemonic := by
  obtain ⟨f, hf, -, -, rfl⟩ := decode_eq_ok_iff.mp h
  exact ⟨f.row, opcodeTable_eq ▸ List.mem_map_of_mem hf, mnemonic_instr hf ..⟩

/-- A word is illegal exactly when no row matches it (R95). -/
theorem no_row_matches_iff_decode_error (w : Word) :
    (∀ r ∈ opcodeTable, w &&& r.mask ≠ r.pattern) ↔ ∃ e, decode w = .error e := by
  constructor
  · intro hnone
    cases hd : decode w with
    | ok i =>
      obtain ⟨r, hr, hname⟩ := exists_row_of_decode hd
      exact absurd ((row_matches_iff_decode hr w).mpr ⟨i, hd, hname⟩) (hnone r hr)
    | error e => exact ⟨e, rfl⟩
  · rintro ⟨e, he⟩ r hr hmatch
    obtain ⟨i, hi, -⟩ := (row_matches_iff_decode hr w).mp hmatch
    rw [he] at hi
    cases hi

/-- An illegal word issued with no fault recorded raises E_ILLCMD with its low byte and low half (R95). -/
theorem issueCommand_of_decode_error {w : Word} {e : IllegalWord} {s : State} (hs : s.status.fault = 0)
    (hd : decode w = .error e) :
    issueCommand w s = .next (faulted 0x01 (w.extractLsb' 0 8) (w.extractLsb' 0 16).toNat s) := by
  simp [issueCommand, faultRecorded, hs, hd, takeFault, raise, faulted, FaultCode.number, fieldOp]

/-! The obligations. -/

/-- Settles O1: the fields of the word hold the operands, and the unused ones 0. -/
theorem decodeOfEncode : Obligations.DecodeOfEncode := by
  unfold Obligations.DecodeOfEncode
  exact fun _ => decode_encode

/-- Settles O2: the format of the decoded instruction packs the word's own fields. -/
theorem encodeOfDecode : Obligations.EncodeOfDecode := by
  unfold Obligations.EncodeOfDecode
  intro w i h
  obtain ⟨f, hf, hop, hzero, rfl⟩ := decode_eq_ok_iff.mp h
  exact ⟨by rw [encode_instr hf hzero, ← hop, packFields_fields], wellFormed_instr hf ..⟩

/-- Settles O3: the decoder's formats are the rows of the table, and an illegal word faults when it is issued. -/
theorem decoderIsTheCommandTable : Obligations.DecoderIsTheCommandTable := by
  unfold Obligations.DecoderIsTheCommandTable
  refine fun w => ⟨fun r hr => row_matches_iff_decode hr w, fun r hr r' hr' => row_unique hr hr',
    no_row_matches_iff_decode_error w, fun s hs hnone => ?_⟩
  obtain ⟨e, he⟩ := (no_row_matches_iff_decode_error w).mp hnone
  exact issueCommand_of_decode_error hs he

/-- Settles O4: the decoder is run on each word. -/
theorem specWordsDecode : Obligations.SpecWordsDecode := by
  unfold Obligations.SpecWordsDecode
  decide

end Sys2Proof.Proofs
end

section
/-! The issue of a command word, NOP and CLRF (R120, R121, R122). -/

namespace Sys2Proof.Proofs

open Sys2Proof Sys2Proof.Machine Sys2Proof.Claims

theorem faultRecorded_iff (s : State) : faultRecorded s = true ↔ s.status.fault ≠ 0 := by simp [faultRecorded]

/-- While a fault is recorded every word but CLRF is dropped, legal or not (R120). -/
theorem issueCommand_of_fault {w : Word} {s : State} (hs : s.status.fault ≠ 0) (hw : w ≠ clrfWord) :
    issueCommand w s = .next s := by
  rw [issueCommand, if_pos ((faultRecorded_iff s).mpr hs), if_neg hw]

/-- CLRF runs whether or not a fault is recorded: kept from the decoder by the first test, or decoded (R120, R122). -/
theorem issueCommand_clrfWord (s : State) : issueCommand clrfWord s = .next (clearFault s) := by
  by_cases hs : s.status.fault = 0
  · exact issueCommand_of_decode (w := clrfWord) (i := .clrf) hs (by decide)
  · rw [issueCommand, if_pos ((faultRecorded_iff s).mpr hs), if_pos rfl]
    rfl

theorem clearFault_raise (op : Byte) (code : FaultCode) (info : Nat) (s : State) :
    clearFault (raise op code info s) = clearFault s := rfl

theorem clearFault_of_status_clear {s : State} (hs : s.status = Status.clear) : clearFault s = s := by
  rw [clearFault, ← hs]

/-- A command that changes a clear STATUS has raised a fault, which CLRF undoes (R122, R404). -/
theorem clearFault_of_exec {i : Instr} {s t : State} (hs : s.status = Status.clear) (h : exec i s = .next t)
    (ht : t.status ≠ s.status) : clearFault t = s := by
  have hi : i ≠ .clrf := by
    rintro rfl
    exact ht (by rw [execClrf_next h, clearFault_status, hs])
  obtain hkept | ⟨code, info, rfl⟩ := (effect_of_exec h).status hi
  · exact absurd hkept ht
  · rw [clearFault_raise, clearFault_of_status_clear hs]

/-- Settles O6: one law of the issue of a word for each of its four cases. -/
theorem commandIssue : Obligations.CommandIssue := by
  unfold Obligations.CommandIssue
  refine fun w s => ⟨?_, fun hs hw => issueCommand_of_fault hs hw, fun hs e hd => issueCommand_of_decode_error hs hd,
    fun hs i hd => issueCommand_of_decode hs hd⟩
  rintro - rfl
  exact issueCommand_clrfWord s

/-- Settles O9: a fault wrote STATUS only, so clearing it gives back the state that had none. -/
theorem nopAndClrf : Obligations.NopAndClrf := by
  unfold Obligations.NopAndClrf
  exact ⟨by decide, by decide, fun _ => rfl, fun _ => rfl, issueCommand_clrfWord,
    fun i s t hs h ht => congrArg Host.Outcome.next (clearFault_of_exec hs h ht)⟩

end Sys2Proof.Proofs
end

section
/-! The commands GFADD, GFMUL, GFEXP, GFLOG, GFROW and GFGEN, and the laws of the field (R130 to R145). -/

namespace Sys2Proof.Proofs

open Sys2Proof Sys2Proof.Machine Sys2Proof.Claims

/-! Powers of ALPHA and their exponents (R131, R133). -/

/-- The printed LOG gives the exponent back, so no two exponents below 255 have one power. -/
theorem gfLog_alphaPow {n : Nat} (hn : n < 255) : gfLog (alphaPow n) = some n := by
  have h : ∀ i, i < 255 → gfLog (gfExp i) = some i := by decide +kernel
  rw [← gfExp_of_lt hn, h n hn]

theorem alphaPow_ne_zero (n : Nat) : alphaPow n ≠ 0 := by
  have hlt : n % 255 < 255 := Nat.mod_lt n (by decide)
  rw [← gfExp_mod, gfExp_of_lt hlt]
  intro hzero
  have hlog := gfLog_alphaPow hlt
  rw [hzero] at hlog
  exact nomatch hlog

theorem alphaPow_inj {m n : Nat} (hm : m < 255) (hn : n < 255) (h : alphaPow m = alphaPow n) : m = n :=
  Option.some.inj (by rw [← gfLog_alphaPow hm, h, gfLog_alphaPow hn])

/-! The laws of the product (R135). -/

/-- Two factors that are not 0 are powers of ALPHA, and so is their product. -/
theorem polyMulMod_eq_zero_iff (a b : Byte) : polyMulMod a b = 0 ↔ a = 0 ∨ b = 0 := by
  constructor
  · contrapose!
    rintro ⟨ha, hb⟩
    obtain ⟨i, -, -, rfl⟩ := gfExp_gfLog ha
    obtain ⟨j, -, -, rfl⟩ := gfExp_gfLog hb
    rw [polyMulMod_alphaPow]
    exact alphaPow_ne_zero (i + j)
  · rintro (rfl | rfl)
    · exact polyMulMod_zero_left b
    · exact polyMulMod_zero_right a

theorem polyMulMod_alpha_left (a : Byte) : polyMulMod 2 a = xtime a := by
  have h := respectsXtime_xtime.map_polyMulMod 1#8 a
  rw [polyMulMod_one_left] at h
  exact h.symm

theorem gfMul_eq_gfExp_gfLog (a b : Byte) :
    gfMul a b = if a = 0 ∨ b = 0 then 0 else gfExp (((gfLog a).getD 0 + (gfLog b).getD 0) % 255) := by
  split_ifs with hzero
  · rw [gfMul_eq_polyMulMod, (polyMulMod_eq_zero_iff a b).mpr hzero]
  · rw [not_or] at hzero
    obtain ⟨i, -, hlogA, -⟩ := gfExp_gfLog hzero.1
    obtain ⟨j, -, hlogB, -⟩ := gfExp_gfLog hzero.2
    simp only [gfMul, hlogA, hlogB, Option.getD_some]

/-- Settles O21: the product by logarithms is that of polynomials, which has these laws. -/
theorem fieldLaws : Obligations.FieldLaws := by
  unfold Obligations.FieldLaws
  refine ⟨gfMul_eq_gfExp_gfLog, ?_⟩
  simp only [gfMul_eq_polyMulMod, gfAdd]
  exact ⟨polyMulMod_comm, polyMulMod_assoc, polyMulMod_xor_right, polyMulMod_one_left, polyMulMod_eq_zero_iff,
    polyMulMod_alpha_left⟩

/-! The commands that leave their result in R0 (R140 to R143). -/

theorem setR0_toNat (b : Byte) (s : State) : setR0 b.toNat s = { s with r0 := b.setWidth 32 } := by
  rw [setR0, word, BitVec.ofNat_toNat]

/-- Settles O19: the sum of the field is the xor of the bytes. -/
theorem gfaddXors : Obligations.GfaddXors := by
  unfold Obligations.GfaddXors
  exact fun a b => ⟨decode_packFields .., fun s => congrArg Host.Outcome.next (setR0_toNat (gfAdd a b) s)⟩

/-- Settles O20: the product by logarithms is the product of polynomials. -/
theorem gfmulIsPolynomialProduct : Obligations.GfmulIsPolynomialProduct := by
  unfold Obligations.GfmulIsPolynomialProduct
  refine fun a b => ⟨decode_packFields .., fun s => ?_⟩
  rw [← gfMul_eq_polyMulMod]
  exact congrArg Host.Outcome.next (setR0_toNat (gfMul a b) s)

/-- Settles O22: the printed EXP, its index reduced, holds the powers of ALPHA. -/
theorem gfexpGivesPowersOfAlpha : Obligations.GfexpGivesPowersOfAlpha := by
  unfold Obligations.GfexpGivesPowersOfAlpha
  intro i s
  rw [← gfExp_mod]
  exact congrArg Host.Outcome.next (setR0_toNat (gfExp (i % 255)) s)

/-- The command leaves the logarithm of an operand that has one. -/
theorem exec_gflog_of_gfLog {a : Byte} {n : Nat} (hlog : gfLog a = some n) (s : State) :
    exec (.gflog a) s = .next { s with r0 := BitVec.ofNat 32 n } := by
  have himage : logImage a = n := by rw [logImage, hlog]
  exact congrArg (fun m => Host.Outcome.next (setR0 m s)) himage

/-- Settles O23: a byte that is not 0 is the power its logarithm says, and of no other exponent below 255. -/
theorem gflogGivesTheExponent : Obligations.GflogGivesTheExponent := by
  unfold Obligations.GflogGivesTheExponent
  refine fun a s => ⟨?_, fun ha => ?_⟩
  · rintro rfl
    rfl
  · obtain ⟨n, hn, hlog, hpow⟩ := gfExp_gfLog ha
    exact ⟨n, hn, hpow, fun m hm hm' => alphaPow_inj hm hn (hm'.trans hpow.symm), exec_gflog_of_gfLog hlog s⟩

/-! The commands that write ROW (R144, R145). -/

theorem readByte_writeBuf_gfRow (c : Byte) (s : State) {i : Nat} (hi : i < 256) :
    readByte (writeBuf .row 0 (gfRow c) s) (0x5200 + i) = polyMulMod c (BitVec.ofNat 8 i) := by
  have hread := readByte_writeBuf_of_lt (b := .row) (o := 0) (vs := gfRow c) (s := s) (hi.trans_eq (gfRow_length c).symm)
  rw [gfRow_getD c hi, gfMul_eq_polyMulMod] at hread
  exact hread

/-- A buffer write changes BUF only (R73). -/
theorem writeBuf_frame (b : Buffer) (o : Nat) (vs : List Byte) (s : State) :
    { writeBuf b o vs s with mem := s.mem } = s := rfl

/-- Settles O24: the row is read back from ROW, and BUF is all that is written. -/
theorem gfrowWritesTheMultiples : Obligations.GfrowWritesTheMultiples := by
  unfold Obligations.GfrowWritesTheMultiples
  refine fun c => ⟨decode_packFields .., fun s => ⟨_, rfl, writeBuf_frame .., ?_, fun a ha => ?_⟩⟩
  · exact fun i hi => readByte_writeBuf_gfRow c s hi
  · exact readByte_writeBuf_of_not_inRange (b := .row) (o := 0) (gfRow_length c) ha

theorem exec_gfgen_of_range {d : Nat} (hd : d < 1 ∨ 30 < d) (s : State) :
    exec (.gfgen d) s = .next (faulted 0x0B 0x15 d s) := if_pos hd

theorem exec_gfgen_of_le {d : Nat} (hpos : 1 ≤ d) (hle : d ≤ 30) (s : State) :
    exec (.gfgen d) s = .next (setR0 d (writeBuf .row 0 (gfGen d) s)) :=
  if_neg (show ¬ (d < 1 ∨ 30 < d) by omega)

theorem bytesAt_writeBuf_gfGen (d : Nat) (s : State) : bytesAt (writeBuf .row 0 (gfGen d) s) 0x5200 d = gfGen d := by
  have h := bytesAt_writeBuf .row (gfGen d) s
  rwa [gfGen_length] at h

/-- Settles O25: ROW holds GEN[d], the coefficients of the generator polynomial below its leading 1. -/
theorem gfgenWritesTheGeneratorPolynomial : Obligations.GfgenWritesTheGeneratorPolynomial := by
  unfold Obligations.GfgenWritesTheGeneratorPolynomial
  refine fun d => ⟨decode_packFields .., fun s => ⟨fun hd => exec_gfgen_of_range hd s, fun hpos hle =>
    ⟨_, exec_gfgen_of_le hpos hle s, rfl, ?_, fun x => ?_, fun a ha => ?_⟩⟩⟩
  · rw [setR0_toNat]
  · exact (congrArg (fun p => evalPoly (1 :: p) x) (bytesAt_writeBuf_gfGen d.toNat s)).trans
      (evalPoly_gfGen (hle.trans (by decide)) x)
  · exact readByte_writeBuf_of_not_inRange (b := .row) (o := 0) (gfGen_length d.toNat) ha

end Sys2Proof.Proofs
end

section
/-! The Reed-Solomon encoder is GF(2)-linear, so a message's redundancy is the xor of what its bytes and its set bits
contribute (R162, R165, R166). -/

namespace Sys2Proof.Proofs

open Sys2Proof Sys2Proof.Machine Sys2Proof.Claims

/-! Byte by byte xor. -/

@[simp] theorem xorBytes_cons (a b : Byte) (p q : List Byte) : xorBytes (a :: p) (b :: q) = (a ^^^ b) :: xorBytes p q := rfl

@[simp] theorem xorBytes_length (p q : List Byte) : (xorBytes p q).length = min p.length q.length := List.length_zipWith

theorem xorBytes_comm (p q : List Byte) : xorBytes p q = xorBytes q p := List.zipWith_comm_of_comm BitVec.xor_comm

theorem xorBytes_assoc (p q r : List Byte) : xorBytes (xorBytes p q) r = xorBytes p (xorBytes q r) := by
  induction p generalizing q r with
  | nil => rfl
  | cons a p ih =>
    cases q with
    | nil => rfl
    | cons b q =>
      cases r with
      | nil => rfl
      | cons c r => simp [ih, BitVec.xor_assoc]

theorem xorBytes_right_comm (p q r : List Byte) : xorBytes (xorBytes p q) r = xorBytes (xorBytes p r) q := by
  rw [xorBytes_assoc, xorBytes_comm q, xorBytes_assoc]

theorem xorBytes_self (p : List Byte) : xorBytes p p = List.replicate p.length 0 := by
  simp [xorBytes, List.zipWith_self, List.map_const']

theorem xorBytes_zeros (p : List Byte) : xorBytes p (List.replicate p.length 0) = p := by
  induction p with
  | nil => rfl
  | cons a p ih => exact congrArg₂ List.cons BitVec.xor_zero ih

theorem xorBytes_append {p p' : List Byte} (h : p.length = p'.length) (q q' : List Byte) :
    xorBytes (p ++ q) (p' ++ q') = xorBytes p p' ++ xorBytes q q' := List.zipWith_append h

/-! The encoder is linear (R162). -/

/-- Adding multiples of the generator respects xor, since the product of the field does (R135). -/
theorem zipWith_gfMul_xor (p p' g : List Byte) (f f' : Byte) :
    List.zipWith (fun r c => gfAdd r (gfMul c (f ^^^ f'))) (xorBytes p p') g =
      xorBytes (List.zipWith (fun r c => gfAdd r (gfMul c f)) p g)
        (List.zipWith (fun r c => gfAdd r (gfMul c f')) p' g) := by
  induction g generalizing p p' with
  | nil => simp [xorBytes]
  | cons c g ih =>
    cases p with
    | nil => rfl
    | cons a p =>
      cases p' with
      | nil => rfl
      | cons a' p' =>
        rw [xorBytes_cons, List.zipWith_cons_cons, ih, gfMul_eq_polyMulMod, polyMulMod_xor_right, gfAdd,
          xor_xor_xor_comm, ← gfMul_eq_polyMulMod, ← gfMul_eq_polyMulMod]
        rfl

/-- One step of the long division is linear in the remainder and the message byte together. -/
theorem rsStep_xorBytes (g : List Byte) {rem rem' : List Byte} (h : rem.length = rem'.length) (b b' : Byte) :
    rsStep g (xorBytes rem rem') (b ^^^ b') = xorBytes (rsStep g rem b) (rsStep g rem' b') := by
  have hhead : (xorBytes rem rem').headD 0 = rem.headD 0 ^^^ rem'.headD 0 := by
    cases rem <;> cases rem' <;> simp_all [xorBytes]
  have htail : (xorBytes rem rem').tail ++ [0] = xorBytes (rem.tail ++ [0]) (rem'.tail ++ [0]) := by
    rw [xorBytes_append (by simp [h])]
    cases rem <;> cases rem' <;> simp_all [xorBytes]
  rw [rsStep, rsStep, rsStep, hhead, htail, gfAdd, xor_xor_xor_comm]
  exact zipWith_gfMul_xor ..

theorem foldl_rsStep_xorBytes (g : List Byte) {m m' rem rem' : List Byte} (hm : m'.length = m.length)
    (hrem : rem.length = rem'.length) :
    (xorBytes m m').foldl (rsStep g) (xorBytes rem rem') = xorBytes (m.foldl (rsStep g) rem) (m'.foldl (rsStep g) rem') := by
  induction m generalizing m' rem rem' with
  | nil => rw [List.length_eq_zero_iff.mp hm]; rfl
  | cons b m ih =>
    obtain ⟨b', m', rfl⟩ := List.exists_cons_of_length_eq_add_one hm
    rw [xorBytes_cons, List.foldl_cons, rsStep_xorBytes g hrem, ih (by simpa using hm) (by simp [hrem])]
    rfl

theorem rs_xorBytes {m m' : List Byte} (h : m'.length = m.length) (e : Nat) :
    rs (xorBytes m m') e = xorBytes (rs m e) (rs m' e) := by
  have hzeros : xorBytes (List.replicate e 0) (List.replicate e 0) = List.replicate e 0 := by
    rw [xorBytes_self, List.length_replicate]
  have hfold := foldl_rsStep_xorBytes (gfGen e) (rem := List.replicate e 0) (rem' := List.replicate e 0) h rfl
  rwa [hzeros] at hfold

theorem rs_replicate_zero (n e : Nat) : rs (List.replicate n 0) e = List.replicate e 0 := by
  have h := rs_xorBytes (m := List.replicate n 0) rfl e
  rwa [xorBytes_self, xorBytes_self, rs_length, List.length_replicate] at h

/-- Zeros before a message leave its redundancy alone. -/
theorem rs_zero_cons (m : List Byte) (e : Nat) : rs (0 :: m) e = rs m e := by
  have h : rs [0] e = List.replicate e 0 := rs_replicate_zero 1 e
  rw [← List.singleton_append, rs, List.foldl_append, ← rs, h, rs]

/-! The superposition tables (R165). -/

@[simp] theorem rsTab_length (e n p : Nat) (v : Byte) : (rsTab e n p v).length = e := rs_length _ _

theorem rsTab_succ (e n p : Nat) (v : Byte) : rsTab e (n + 1) (p + 1) v = rsTab e n p v := by
  rw [rsTab, rsTab, List.replicate_succ, List.cons_append, rs_zero_cons, show n + 1 - 1 - (p + 1) = n - 1 - p by omega]

/-- An entry is linear in the byte value. -/
theorem rsTab_xor (e n p : Nat) (v w : Byte) : rsTab e n p (v ^^^ w) = xorBytes (rsTab e n p v) (rsTab e n p w) := by
  rw [rsTab, rsTab, rsTab, ← rs_xorBytes (by simp), xorBytes_append rfl, xorBytes_cons, xorBytes_self, xorBytes_self,
    List.length_replicate, List.length_replicate]

theorem rsTab_zero (e n p : Nat) : rsTab e n p 0 = List.replicate e 0 := by
  have h := rsTab_xor e n p 0 0
  rwa [xorBytes_self, rsTab_length] at h

/-- The first byte of a message contributes its entry, the others what they contribute without it. -/
theorem rs_cons (c : Byte) (m : List Byte) (e : Nat) : rs (c :: m) e = xorBytes (rs m e) (rsTab e (m.length + 1) 0 c) := by
  have hsplit : xorBytes (0 :: m) (c :: List.replicate m.length 0) = c :: m :=
    congrArg₂ List.cons BitVec.zero_xor (xorBytes_zeros m)
  rw [← hsplit, rs_xorBytes (by simp), rs_zero_cons]
  rfl

/-- The contribution of the byte at position `p` of the message, added to the accumulator. -/
def addByte (m : List Byte) (e : Nat) (acc : List Byte) (p : Nat) : List Byte :=
  xorBytes acc (rsTab e m.length p (m.getD p 0))

/-- The contributions accumulated from the last byte to the first are the redundancy (R165). -/
theorem rs_eq_foldl_addByte (m : List Byte) (e : Nat) :
    rs m e = (List.range m.length).reverse.foldl (addByte m e) (List.replicate e 0) := by
  induction m with
  | nil => rfl
  | cons c m ih =>
    have hrest : (fun acc p => addByte (c :: m) e acc (p + 1)) = addByte m e := by
      funext acc p
      simp [addByte, rsTab_succ]
    rw [List.length_cons, List.range_succ_eq_map, List.reverse_cons, List.foldl_append, ← List.map_reverse, List.foldl_map,
      hrest, ← ih, rs_cons]
    rfl

/-! The single-bit contributions (R166). -/

/-- The message of one set bit, after zeros, is one entry of the tables. -/
theorem sbc_eq_rsTab (b e : Nat) {n p : Nat} (h : p < n) : sbc b (n - 1 - p) e = rsTab e n p (BitVec.ofNat 8 (1 <<< b)) := by
  induction p generalizing n with
  | zero => rfl
  | succ p ih =>
    obtain ⟨n, rfl⟩ : ∃ k, n = k + 1 := ⟨n - 1, by omega⟩
    rw [rsTab_succ, ← ih (by omega), show n + 1 - 1 - (p + 1) = n - 1 - p by omega]

/-- The contribution of bit `pb.2` of byte `pb.1` of the message, if it is set, added to the accumulator. -/
def addBit (m : List Byte) (e : Nat) (acc : List Byte) (pb : Nat × Nat) : List Byte :=
  if (m.getD pb.1 0).getLsbD pb.2 then xorBytes acc (sbc pb.2 (m.length - 1 - pb.1) e) else acc

/-- The byte whose set bits are those of `v` at the given places. -/
def bitsOf (v : Byte) (places : List Nat) : Byte :=
  places.foldr (fun b w => (if v.getLsbD b then BitVec.ofNat 8 (1 <<< b) else 0) ^^^ w) 0

theorem bitsOf_range : ∀ v : Byte, bitsOf v (List.range 8) = v := by decide +kernel

/-- The bits of one byte contribute what the byte made of them does. -/
theorem foldl_addBit_byte {m : List Byte} {p : Nat} (hp : p < m.length) {e : Nat} (places : List Nat) {acc : List Byte}
    (hacc : acc.length = e) : (places.map fun b => (p, b)).foldl (addBit m e) acc =
      xorBytes acc (rsTab e m.length p (bitsOf (m.getD p 0) places)) := by
  induction places generalizing acc with
  | nil =>
    subst hacc
    rw [bitsOf, List.foldr_nil, rsTab_zero, xorBytes_zeros]
    rfl
  | cons b places ih =>
    rw [List.map_cons, List.foldl_cons, addBit, sbc_eq_rsTab b e hp, bitsOf, List.foldr_cons, ← bitsOf]
    split_ifs with hset
    · rw [ih (by simp [hacc]), xorBytes_assoc, ← rsTab_xor]
    · rw [ih hacc]
      simp

/-- Byte after byte, the bits accumulate what the bytes do. -/
theorem foldl_addBit_eq_foldl_addByte {m : List Byte} {positions : List Nat} (h : ∀ p ∈ positions, p < m.length) {e : Nat}
    {acc : List Byte} (hacc : acc.length = e) :
    (positions.flatMap fun p => (List.range 8).map fun b => (p, b)).foldl (addBit m e) acc =
      positions.foldl (addByte m e) acc := by
  induction positions generalizing acc with
  | nil => rfl
  | cons p positions ih =>
    obtain ⟨hp, hpositions⟩ := List.forall_mem_cons.mp h
    rw [List.flatMap_cons, List.foldl_append, foldl_addBit_byte hp _ hacc, bitsOf_range, List.foldl_cons,
      ih hpositions (by simp [hacc])]
    rfl

/-- The contributions of the set bits, accumulated from the first byte to the last, are the redundancy. -/
theorem rs_eq_foldl_addBit (m : List Byte) (e : Nat) :
    rs m e = ((List.range m.length).flatMap fun p => (List.range 8).map fun b => (p, b)).foldl (addBit m e)
      (List.replicate e 0) := by
  rw [foldl_addBit_eq_foldl_addByte (fun p hp => List.mem_range.mp hp) List.length_replicate, rs_eq_foldl_addByte]
  exact (List.reverse_perm _).foldl_eq' (f := addByte m e) (fun _ _ _ _ _ => xorBytes_right_comm ..) _

/-- Settles O28: the long division is linear, a message is the xor of its bytes, and a byte that of its bits. -/
theorem encoderIsLinear : Obligations.EncoderIsLinear := by
  unfold Obligations.EncoderIsLinear
  exact fun m e => ⟨fun _ h => rs_xorBytes h e, rs_replicate_zero m.length e, rs_eq_foldl_addBit m e,
    rs_eq_foldl_addByte m e⟩

end Sys2Proof.Proofs
end

section
/-! RSENC and RSBIT: their faults, and the redundancy they leave in ECC (R163, R164, R170, R171). -/

namespace Sys2Proof.Proofs

open Sys2Proof Sys2Proof.Machine Sys2Proof.Claims

theorem rsSupported_iff_supported {chosen : Nat → Nat} {n e : Nat} :
    rsSupported chosen n e = true ↔ Supported chosen n e := rsSupported_iff

/-- A command that leaves the redundancy of a message in ECC and its length in R0 makes a codeword and changes nothing
else. -/
theorem codeword_of_writeBuf_ecc {m : List Byte} {e : Nat} {s : State} {r : Result}
    (hr : r = .next (setR0 e (writeBuf .ecc 0 (rs m e) s))) (he : e ≤ 30) :
    ∃ t, r = .next t ∧ { t with mem := s.mem, r0 := s.r0 } = s ∧ t.r0 = BitVec.ofNat 32 e ∧
      IsCodeword (m ++ bytesAt t 0x5100 e) e ∧ ∀ a, ¬ inRange a (0x5100, e) → readByte t a = readByte s a := by
  refine ⟨_, hr, rfl, rfl, ?_, fun a ha => ?_⟩
  · have hecc := bytesAt_writeBuf .ecc (rs m e) s
    rw [rs_length] at hecc
    have hcode := isCodeword_append_rs m (he.trans (by decide : 30 ≤ 255))
    rwa [← hecc] at hcode
  · exact readByte_writeBuf_of_not_inRange (b := .ecc) (o := 0) (rs_length m e) ha

theorem rsencDoes_rsencWithin (chosen : Nat → Nat) (len e : Nat) (s : State) :
    RsencDoes chosen len e (rsencWithin chosen len e) s :=
  ⟨fun h => if_neg (mt rsSupported_iff_supported.mp h),
    fun ⟨h1, he, hn, hle⟩ => codeword_of_writeBuf_ecc (if_pos (rsSupported_iff_supported.mpr ⟨h1, he, hn, hle⟩)) he⟩

/-- The blocks of the printed table have data and redundancy. -/
theorem blockRow_nonempty {v : Nat} (h1 : 1 ≤ v) (hv : v ≤ 40) (l : Level) :
    1 ≤ (blockRow v l).eccLen ∧ 1 ≤ (blockRow v l).len1 := by
  have h : ∀ v ∈ List.range 41, ∀ l ∈ [Level.L, .M, .Q, .H], 1 ≤ v →
      1 ≤ (blockRow v l).eccLen ∧ 1 ≤ (blockRow v l).len1 := by decide +kernel
  exact h v (List.mem_range.mpr (by omega)) l (by cases l <;> simp) h1

theorem dataLen_bounds (r : BlockRow) {k : Nat} (hk : k < nblocks r) :
    r.len1 ≤ dataLen r k ∧ dataLen r k ≤ blockLenPaired r.eccLen r := by
  rw [nblocks] at hk
  rw [dataLen, blockLenPaired]
  split_ifs <;> omega

/-- R163 bounds RS_MAXLEN from below by the blocks of the table, so these are supported whatever the choice. -/
theorem supported_block (chosen : Nat → Nat) {v : Nat} (h1 : 1 ≤ v) (hv : v ≤ 40) (l : Level) {k : Nat}
    (hk : k < nblocks (blockRow v l)) : Supported chosen (dataLen (blockRow v l) k) (blockRow v l).eccLen := by
  obtain ⟨hecc, hdata⟩ := blockRow_nonempty h1 hv l
  obtain ⟨-, -, -, hmax, -⟩ := blockRow_bounds v l
  obtain ⟨hge, hle⟩ := dataLen_bounds (blockRow v l) hk
  exact ⟨hecc, hmax, hdata.trans hge, hle.trans
    ((blockLenPaired_le_leastMaxLen printedTables l h1 hv _).trans (le_max_left _ _))⟩

/-- Settles O26: the unit's own RS_MAXLEN is one of the choices. -/
theorem rsencMakesCodewords : Obligations.RsencMakesCodewords := by
  unfold Obligations.RsencMakesCodewords
  exact ⟨fun len e s => ⟨rsencDoes_rsencWithin Config.rsMaxLen len e s,
      fun chosen => rsencDoes_rsencWithin chosen len e s⟩,
    fun chosen _ l _ h1 hv hk => supported_block chosen h1 hv l hk⟩

theorem singleBitMessage_eq (b p : Nat) : singleBitMessage b p = BitVec.twoPow 8 b :: List.replicate p 0 := by
  have hbyte : BitVec.ofNat 8 (1 <<< b) = BitVec.twoPow 8 b := BitVec.eq_of_toNat_eq (by simp [Nat.shiftLeft_eq])
  rw [singleBitMessage, hbyte]

theorem rsbitDoes_rsbitWithin (chosen : Nat → Nat) (b p e : Nat) (s : State) :
    RsbitDoes chosen b p e (rsbitWithin chosen b p e) s := by
  refine ⟨fun hb => if_pos hb, fun hb hpair => ?_, fun hb h1 he hp => ?_⟩
  · have hsup : ¬ Supported chosen (p + 1) e := fun ⟨h1, he, _, hp⟩ => by omega
    exact (if_neg (by omega)).trans (if_neg (mt rsSupported_iff_supported.mp hsup))
  · have hsup : Supported chosen (p + 1) e := ⟨h1, he, Nat.succ_pos p, hp⟩
    rw [← singleBitMessage_eq]
    exact codeword_of_writeBuf_ecc ((if_neg (by omega)).trans (if_pos (rsSupported_iff_supported.mpr hsup))) he

/-- Settles O27: the single-bit contribution is the redundancy of the message of one set bit. -/
theorem rsbitGivesTheSingleBitContribution : Obligations.RsbitGivesTheSingleBitContribution := by
  unfold Obligations.RsbitGivesTheSingleBitContribution
  exact fun a b c => ⟨decode_packFields .., fun s => ⟨rsbitDoes_rsbitWithin .., fun _ => rsbitDoes_rsbitWithin ..⟩⟩

end Sys2Proof.Proofs
end

section
/-! LAYOUT, SETMASK, FMTINFO and VERINFO (R216 to R221, R224, R225), the precondition and range faults (R402, R406, R455),
and the block structure (R192, R226, R227). -/

namespace Sys2Proof.Proofs

open Sys2Proof Sys2Proof.Machine Sys2Proof.Claims

/-! LAYOUT and SETMASK. -/

theorem levelOf?_of_gt {e : Nat} (h : 3 < e) : levelOf? e = none :=
  match e, h with
  | _ + 4, _ => rfl

theorem exists_levelOf? {e : Nat} (h : e ≤ 3) : ∃ l, levelOf? e = some l :=
  match e, h with
  | 0, _ => ⟨.L, rfl⟩
  | 1, _ => ⟨.M, rfl⟩
  | 2, _ => ⟨.Q, rfl⟩
  | 3, _ => ⟨.H, rfl⟩

theorem exec_layout_of_level {v e : Nat} {l : Level} (h1 : 1 ≤ v) (h40 : v ≤ 40) (hl : levelOf? e = some l) (s : State) :
    exec (.layout v e) s = .next (selectLayout v l s) := by
  simp [exec, execLayout, hl, show v ≠ 0 by omega, h40]

theorem exec_layout_of_no_level {v e : Nat} (h1 : 1 ≤ v) (h40 : v ≤ 40) (hl : levelOf? e = none) (s : State) :
    exec (.layout v e) s = takeFault opLayout .eclevel e s := by
  simp [exec, execLayout, hl, show v ≠ 0 by omega, h40]

/-- Settles O29: the version is checked first, then the level; a version of the forty fits the field VER. -/
theorem layoutSelects : Obligations.LayoutSelects := by
  unfold Obligations.LayoutSelects
  refine fun a b => ⟨decode_packFields .., fun s => ⟨fun hv => if_pos hv, fun h1 h40 hb => ?_, fun h1 h40 hb => ?_⟩⟩
  · exact exec_layout_of_no_level h1 h40 (levelOf?_of_gt hb) s
  · obtain ⟨l, hl⟩ := exists_levelOf? hb
    exact ⟨_, exec_layout_of_level h1 h40 hl s, toNat_ofNat_of_lt (h40.trans_lt (by decide)), hl, rfl, rfl, rfl, rfl⟩

/-- Settles O30: a mask version up to 7 fits the field MSK. -/
theorem setmaskSelects : Obligations.SetmaskSelects := by
  unfold Obligations.SetmaskSelects
  refine fun a => ⟨decode_packFields .., fun s => ⟨fun hm => if_pos hm, fun hm => ?_⟩⟩
  exact ⟨_, if_neg (Nat.not_lt.mpr hm), toNat_ofNat_of_lt (hm.trans_lt (by decide)), rfl, rfl, rfl, rfl, rfl⟩

/-! FMTINFO and VERINFO. -/

/-- The words R216 computes are those R217 prints. -/
theorem fmtWord_eq (l : Level) (m : BitVec 3) :
    fmtWord l m.toNat = (formatWords.getD (levelOrdinal l).toNat []).getD m.toNat 0 := by
  have h : ∀ l ∈ [Level.L, .M, .Q, .H], ∀ m : BitVec 3,
      fmtWord l m.toNat = (formatWords.getD (levelOrdinal l).toNat []).getD m.toNat 0 := by decide
  exact h l (by cases l <;> simp) m

/-- The words R218 computes are those R219 prints. -/
theorem verWord_eq {v : Nat} (h7 : 7 ≤ v) (h40 : v ≤ 40) : verWord v = versionWords.getD (v - 7) 0 := by
  have h : ∀ n, n < 34 → verWord (n + 7) = versionWords.getD n 0 := by decide +kernel
  have hv := h (v - 7) (by omega)
  rwa [Nat.sub_add_cancel h7] at hv

/-- Settles O38: the layout is asked for before the mask, and the computed words are the printed ones. -/
theorem fmtinfoReadsTheFormatWord : Obligations.FmtinfoReadsTheFormatWord := by
  unfold Obligations.FmtinfoReadsTheFormatWord
  refine ⟨decode_packFields .., fun s => ⟨fun hlay => ?_, fun hlay hmask => ?_, fun hlay hmask => ?_⟩⟩
  · exact if_pos (by rw [hlay]; rfl)
  · exact (if_neg (by simp [hlay])).trans (if_pos (by rw [hmask]; rfl))
  · rw [exec_fmtinfo_of_layout hlay hmask, ← fmtWord_eq]
    rfl

/-- Settles O39: the computed words are the printed ones. -/
theorem verinfoReadsTheVersionWord : Obligations.VerinfoReadsTheVersionWord := by
  unfold Obligations.VerinfoReadsTheVersionWord
  refine ⟨decode_packFields .., fun s => ⟨fun hlay => ?_, fun ⟨hlay, _, _⟩ hv => ?_, fun ⟨hlay, _, h40⟩ hv => ?_⟩⟩
  · exact if_pos (by rw [hlay]; rfl)
  · rw [exec_verinfo_of_layout hlay, if_neg (Nat.not_le.mpr hv)]
    rfl
  · rw [exec_verinfo_of_layout hlay, if_pos hv, verWord_eq hv h40]
    rfl

/-! The faults (R402, R406, R455). -/

section
variable {s : State}

theorem exec_of_no_layout (hlay : s.cfg.layv = false) (x y : Nat) :
    ∀ i ∈ [Instr.cell x y, .maskbit x y, .fmtinfo, .verinfo, .blkinfo x, .capinfo, .solveblk x false, .build, .assemble],
      exec i s = .next (faulted 0x0C (fieldOp (encode i)) 0 s) := by
  have hguard : (!s.cfg.layv) = true := by rw [hlay]; rfl
  simp only [List.forall_mem_cons, encode, fieldOp_packFields]
  exact ⟨if_pos hguard, if_pos hguard, if_pos hguard, if_pos hguard, if_pos hguard, if_pos hguard, if_pos hguard,
    if_pos hguard, if_pos hguard, by simp⟩

theorem exec_of_no_mask (hlay : s.cfg.layv = true) (hmask : s.cfg.mskv = false) (x y : Nat) :
    ∀ i ∈ [Instr.maskbit x y, .fmtinfo, .solveblk x false, .build, .assemble],
      exec i s = .next (faulted 0x0D (fieldOp (encode i)) 0 s) := by
  have hguard : ¬ (!s.cfg.layv) = true := by simp [hlay]
  have hguard' : (!s.cfg.mskv) = true := by rw [hmask]; rfl
  simp only [List.forall_mem_cons, encode, fieldOp_packFields]
  exact ⟨(if_neg hguard).trans (if_pos hguard'), (if_neg hguard).trans (if_pos hguard'),
    (if_neg hguard).trans (if_pos hguard'), (if_neg hguard).trans (if_pos hguard'),
    (if_neg hguard).trans (if_pos hguard'), by simp⟩

end

/-- Settles O60: the guards of each command, in their order. -/
theorem preconditionFaults : Obligations.PreconditionFaults := by
  unfold Obligations.PreconditionFaults
  refine fun s x y => ⟨fun hlay => exec_of_no_layout hlay x y, fun hlay hmask => exec_of_no_mask hlay hmask x y, fun hlay => ?_⟩
  have hguard : ¬ (!s.cfg.layv) = true := by simp [hlay]
  refine ⟨fun hx => ?_, fun hx hy => ?_, fun hk => ?_, fun hmask => ?_⟩
  · exact (if_neg hguard).trans (if_pos hx)
  · exact (if_neg hguard).trans ((if_neg (Nat.not_le.mpr hx)).trans (if_pos hy))
  · exact (if_neg hguard).trans (if_pos hk)
  have hguard' : ¬ (!s.cfg.mskv) = true := by simp [hmask]
  refine ⟨fun hx => ?_, fun hx hy => ?_, fun hlen => ?_⟩
  · exact (if_neg hguard).trans ((if_neg hguard').trans (if_pos hx))
  · exact (if_neg hguard).trans ((if_neg hguard').trans ((if_neg (Nat.not_le.mpr hx)).trans (if_pos hy)))
  · exact (if_neg hguard).trans ((if_neg hguard').trans (if_pos hlen))

/-! CAPINFO and BLKINFO. -/

/-- The answers of CAPINFO and BLKINFO for the current row of any tables; the blocks' offsets are those of R192. -/
theorem blocksAre_under {s : State} (hlay : s.cfg.layv = true) (q : QrTables) :
    BlocksAre (curRow s q) (totalCodewords (curRow s q)) (capinfoUnder q s) (fun k => blkinfoUnder q k s) s := by
  have hguard : ¬ (!s.cfg.layv) = true := by simp [hlay]
  refine ⟨nblocks (curRow s q), dataTotal (curRow s q), if_neg hguard, rfl, rfl, dataOff (curRow s q), rfl,
    dataOff_nblocks _, fun k hk => ⟨dataLen (curRow s q) k, ?_, rfl, ?_⟩⟩
  · exact (if_neg hguard).trans (if_neg (Nat.not_le.mpr hk))
  · rw [dataLen]
    split_ifs <;> rfl

/-- Settles O40: with the printed tables the codewords add up to the version's total. -/
theorem blockStructure : Obligations.BlockStructure := by
  unfold Obligations.BlockStructure
  refine fun s ⟨hlay, _, h40⟩ => ⟨?_, fun q => ⟨_, blocksAre_under hlay q⟩⟩
  obtain ⟨-, -, -, -, -, htotal⟩ := blockRow_bounds_of_le (curVersion s) h40 s.cfg.ecl (by cases s.cfg.ecl <;> simp)
  rw [← htotal]
  exact blocksAre_under hlay printedTables

end Sys2Proof.Proofs
end

section
/-! The cells of the fixed patterns and of the format and version words (R196 to R205): which step of the construction
assigns a cell, and what it assigns. -/

namespace Sys2Proof.Proofs

open Sys2Proof Sys2Proof.Machine Sys2Proof.Claims

/-! Places. -/

theorem le_side {v : Nat} (h : 1 ≤ v) : 21 ≤ side v := by
  rw [side]
  omega

theorem coordDist_eq_apart (a b : Nat) : coordDist a b = apart a b := by
  rw [coordDist, apart]
  omega

theorem ring_eq (cx cy x y : Nat) : ring cx cy x y = max (apart x cx) (apart y cy) := by
  rw [ring, coordDist_eq_apart, coordDist_eq_apart]

theorem apart_le_iff {a b n : Nat} : apart a b ≤ n ↔ a ≤ b + n ∧ b ≤ a + n := by
  rw [apart]
  omega

theorem ring_le_iff {cx cy x y n : Nat} : ring cx cy x y ≤ n ↔ (x ≤ cx + n ∧ cx ≤ x + n) ∧ y ≤ cy + n ∧ cy ≤ y + n := by
  rw [ring_eq, max_le_iff, apart_le_iff, apart_le_iff]

/-- The only element with a property is the one a search finds. -/
theorem find?_eq_some_of_unique {α : Type} {l : List α} {p : α → Bool} {a : α} (ha : a ∈ l) (hp : p a = true)
    (hunique : ∀ b ∈ l, p b = true → b = a) : l.find? p = some a := by
  cases hfind : l.find? p with
  | none => exact absurd hp (List.find?_eq_none.mp hfind a ha)
  | some b => rw [hunique b (List.mem_of_find?_eq_some hfind) (List.find?_some hfind)]

/-- What a search of the cells of a word's bits finds. -/
theorem of_find?_pos {n i : Nat} {pos : Nat → Nat × Nat} {c : Nat × Nat}
    (h : ((List.range n).find? fun i => pos i == c) = some i) : i < n ∧ pos i = c :=
  ⟨List.mem_range.mp (List.mem_of_find?_eq_some h), beq_iff_eq.mp (List.find?_some (p := fun i => pos i == c) h)⟩

/-- What a search of the centres near a cell finds. -/
theorem of_find?_ring {centres : List (Nat × Nat)} {n x y : Nat} {c : Nat × Nat}
    (h : (centres.find? fun c : Nat × Nat => ring c.1 c.2 x y ≤ n) = some c) : c ∈ centres ∧ ring c.1 c.2 x y ≤ n :=
  ⟨List.mem_of_find?_eq_some h, of_decide_eq_true (List.find?_some (p := fun c : Nat × Nat => ring c.1 c.2 x y ≤ n) h)⟩

/-- The cell lies in a finder block or its separator: the three 8 by 8 corners (R197, R198). -/
def InCorner (sd x y : Nat) : Prop := x ≤ 7 ∧ y ≤ 7 ∨ sd ≤ x + 8 ∧ y ≤ 7 ∨ x ≤ 7 ∧ sd ≤ y + 8

/-- The cell lies on the parts of row 8 and column 8 that hold the format word (R204). -/
def OnFormatLines (sd x y : Nat) : Prop := x = 8 ∧ (y ≤ 8 ∨ sd ≤ y + 7) ∨ y = 8 ∧ (x ≤ 8 ∨ sd ≤ x + 8)

/-- The cell lies in one of the two 3 by 6 blocks that hold the version word (R205). -/
def InVersionBlock (sd x y : Nat) : Prop := y ≤ 5 ∧ sd ≤ x + 11 ∧ x + 9 ≤ sd ∨ x ≤ 5 ∧ sd ≤ y + 11 ∧ y + 9 ≤ sd

/-! Finder patterns and separators (R197, R198). -/

theorem mem_finderCentres {sd : Nat} {c : Nat × Nat} :
    c ∈ finderCentres sd ↔ (c.1 = 3 ∨ c.1 = sd - 4) ∧ (c.2 = 3 ∨ c.2 = sd - 4) ∧ (c.1 = 3 ∨ c.2 = 3) := by
  simp only [finderCentres, List.mem_cons, List.not_mem_nil, or_false, Prod.ext_iff]
  omega

section
variable {sd x y : Nat} {c : Nat × Nat}

theorem finderCell_eq_some (hsd : 21 ≤ sd) (hc : c ∈ finderCentres sd) (hring : ring c.1 c.2 x y ≤ 3) :
    finderCell sd x y = some (.finderPattern (ring c.1 c.2 x y != 2)) := by
  refine congrArg (Option.map _) (find?_eq_some_of_unique hc (decide_eq_true hring) fun b hb hring' => ?_)
  have hring' := of_decide_eq_true hring'
  simp only [ring_le_iff, mem_finderCentres] at hring hring' hb hc
  exact Prod.ext (by omega) (by omega)

theorem separatorCell_eq_some (hc : c ∈ finderCentres sd) (hring : ring c.1 c.2 x y = 4) :
    separatorCell sd x y = some (.separator false) := by
  refine if_pos (List.any_eq_true.mpr ⟨c, hc, ?_⟩)
  exact beq_iff_eq.mpr hring

theorem inCorner_of_ring (hc : c ∈ finderCentres sd) (hring : ring c.1 c.2 x y ≤ 4) :
    InCorner sd x y := by
  simp only [ring_le_iff, mem_finderCentres] at hring hc
  rw [InCorner]
  omega

theorem finderCell_eq_none (h : ∀ c ∈ finderCentres sd, 3 < ring c.1 c.2 x y) : finderCell sd x y = none := by
  simpa [finderCell] using h

/-- The two first steps assign nothing outside the corners. -/
theorem cornerSteps_eq_none (hcorner : ¬ InCorner sd x y) :
    finderCell sd x y = none ∧ separatorCell sd x y = none := by
  have hfar : ∀ c ∈ finderCentres sd, 4 < ring c.1 c.2 x y := fun c hc =>
    not_le.mp fun hring => hcorner (inCorner_of_ring hc hring)
  refine ⟨finderCell_eq_none fun c hc => (hfar c hc).trans' (by decide), if_neg fun hany => ?_⟩
  obtain ⟨c, hc, hring⟩ := List.any_eq_true.mp hany
  exact (hfar c hc).ne' (beq_iff_eq.mp hring)

end

/-! Alignment patterns (R199). -/

/-- The coordinates of ALIGN_TABLE are 6, side - 7, and others well between them, and no two are close (R253). -/
theorem alignCoords_places {v : Nat} (h40 : v ≤ 40) :
    (∀ c ∈ alignCoords v, c = 6 ∨ 18 ≤ c ∧ (c + 7 = side v ∨ c + 19 ≤ side v)) ∧
    ∀ c ∈ alignCoords v, ∀ c' ∈ alignCoords v, c = c' ∨ 5 ≤ apart c c' := by
  have h : ∀ v ∈ List.range 41, (∀ c ∈ alignCoords v, c = 6 ∨ 18 ≤ c ∧ (c + 7 = side v ∨ c + 19 ≤ side v)) ∧
      ∀ c ∈ alignCoords v, ∀ c' ∈ alignCoords v, c = c' ∨ 5 ≤ apart c c' := by decide +kernel
  exact h v (List.mem_range.mpr (by omega))

theorem mem_alignCentres {v : Nat} {c : Nat × Nat} :
    c ∈ alignCentres v ↔ c.1 ∈ alignCoords v ∧ c.2 ∈ alignCoords v ∧ c ≠ (6, 6) ∧ c ≠ (side v - 7, 6) ∧
      c ≠ (6, side v - 7) := by
  obtain ⟨cx, cy⟩ := c
  simp [alignCentres, and_assoc]

section
variable {v x y : Nat} {c : Nat × Nat}

/-- A centre lies on column 6 or on row 6, then far from the corners, or inside both lines. -/
theorem alignCentre_place (h40 : v ≤ 40) (hc : c ∈ alignCentres v) :
    c.1 = 6 ∧ 18 ≤ c.2 ∧ c.2 + 19 ≤ side v ∨ c.2 = 6 ∧ 18 ≤ c.1 ∧ c.1 + 19 ≤ side v ∨
    18 ≤ c.1 ∧ 18 ≤ c.2 ∧ c.1 + 7 ≤ side v ∧ c.2 + 7 ≤ side v := by
  obtain ⟨hx, hy, h66, hright, hbottom⟩ := mem_alignCentres.mp hc
  obtain ⟨hplace, -⟩ := alignCoords_places h40
  simp only [ne_eq, Prod.ext_iff] at h66 hright hbottom
  obtain hx | ⟨hx, hx' | hx'⟩ := hplace _ hx <;> obtain hy | ⟨hy, hy' | hy'⟩ := hplace _ hy <;> omega

theorem alignmentCell_eq_some (h40 : v ≤ 40) (hc : c ∈ alignCentres v) (hring : ring c.1 c.2 x y ≤ 2) :
    alignmentCell v x y = some (.alignmentPattern (ring c.1 c.2 x y != 1)) := by
  refine congrArg (Option.map _) (find?_eq_some_of_unique hc (decide_eq_true hring) fun b hb hring' => ?_)
  have hring' := of_decide_eq_true hring'
  obtain ⟨-, hspaced⟩ := alignCoords_places h40
  obtain ⟨hcx, hcy, -⟩ := mem_alignCentres.mp hc
  obtain ⟨hbx, hby, -⟩ := mem_alignCentres.mp hb
  have hsx := hspaced _ hcx _ hbx
  have hsy := hspaced _ hcy _ hby
  simp only [ring_le_iff] at hring hring'
  simp only [apart] at hsx hsy
  exact Prod.ext (by omega) (by omega)

theorem alignmentCell_eq_none (h : ∀ c ∈ alignCentres v, 2 < ring c.1 c.2 x y) : alignmentCell v x y = none := by
  simp only [alignmentCell, Option.map_eq_none_iff, List.find?_eq_none, decide_eq_true_eq, not_le]
  exact h

/-- An alignment pattern keeps away from the corners and from the ends of the lines beside them. -/
theorem alignmentBlock_place (h40 : v ≤ 40) (hc : c ∈ alignCentres v) (hring : ring c.1 c.2 x y ≤ 2) :
    16 ≤ y ∧ y + 17 ≤ side v ∧ x ≤ 8 ∨ 16 ≤ x ∧ x + 17 ≤ side v ∧ y ≤ 8 ∨ 16 ≤ x ∧ 16 ≤ y := by
  have hplace := alignCentre_place h40 hc
  rw [ring_le_iff] at hring
  omega

theorem not_inCorner_of_alignment (h40 : v ≤ 40) (hc : c ∈ alignCentres v) (hring : ring c.1 c.2 x y ≤ 2) :
    ¬ InCorner (side v) x y := by
  have hplace := alignmentBlock_place h40 hc hring
  rw [InCorner]
  omega

/-- No alignment pattern reaches the cells of the information words or the dark module. -/
theorem alignmentCell_eq_none_of_information (h1 : 1 ≤ v) (h40 : v ≤ 40)
    (h : OnFormatLines (side v) x y ∨ InVersionBlock (side v) x y ∨ x = 8 ∧ y = side v - 8) : alignmentCell v x y = none := by
  refine alignmentCell_eq_none fun c hc => not_le.mp fun hring => ?_
  have hplace := alignmentBlock_place h40 hc hring
  have hside := le_side h1
  obtain hlines | hblock | hdark := h
  · rw [OnFormatLines] at hlines
    omega
  · rw [InVersionBlock] at hblock
    omega
  · omega

end

/-! Format and version information (R204, R205). -/

theorem fmtPos0_of_ge {i : Nat} (h : 9 ≤ i) : fmtPos0 i = (14 - i, 8) := by
  rw [fmtPos0, if_neg (by omega), if_neg (by omega), if_neg (by omega), if_neg (by omega)]

theorem fmtPos1_of_ge {i : Nat} (h : 9 ≤ i) (sd : Nat) : fmtPos1 sd i = (8, sd - 15 + i) := by
  rw [fmtPos1, if_neg (by omega), if_neg (by omega), if_neg (by omega), if_neg (by omega)]

theorem fmtPos0_place {i x y : Nat} (hi : i < 15) (h : fmtPos0 i = (x, y)) (sd : Nat) :
    OnFormatLines sd x y ∧ x ≠ 6 ∧ y ≠ 6 := by
  rw [OnFormatLines]
  unfold fmtPos0 at h
  split_ifs at h <;> cases h <;> omega

theorem fmtPos1_place {sd i x y : Nat} (hsd : 21 ≤ sd) (hi : i < 15) (h : fmtPos1 sd i = (x, y)) :
    OnFormatLines sd x y ∧ x ≠ 6 ∧ y ≠ 6 := by
  rw [OnFormatLines]
  unfold fmtPos1 at h
  split_ifs at h <;> cases h <;> omega

theorem fmtPos0_inj : ∀ i, i < 15 → ∀ j, j < 15 → fmtPos0 i = fmtPos0 j → i = j := by decide

theorem fmtPos1_inj {sd i j : Nat} (hsd : 21 ≤ sd) (hi : i < 15) (hj : j < 15) (h : fmtPos1 sd i = fmtPos1 sd j) : i = j := by
  unfold fmtPos1 at h
  split_ifs at h <;> simp only [Prod.mk.injEq] at h <;> omega

theorem fmtPos0_ne_fmtPos1 {sd i j : Nat} (hsd : 21 ≤ sd) (hi : i < 15) (hj : j < 15) : fmtPos0 i ≠ fmtPos1 sd j := by
  intro h
  unfold fmtPos0 fmtPos1 at h
  split_ifs at h <;> simp only [Prod.mk.injEq] at h <;> omega

section
variable {sd i x y : Nat}

theorem formatCell_copy0 (hi : i < 15) (h : fmtPos0 i = (x, y)) : formatCell sd x y = some (.formatInfo i 0) := by
  have hfind : ((List.range 15).find? fun j => fmtPos0 j == (x, y)) = some i :=
    find?_eq_some_of_unique (List.mem_range.mpr hi) (beq_iff_eq.mpr h) fun j hj hxy =>
      fmtPos0_inj j (List.mem_range.mp hj) i hi ((beq_iff_eq.mp hxy).trans h.symm)
  rw [formatCell, hfind]

theorem formatCell_copy1 (hsd : 21 ≤ sd) (hi : i < 15) (h : fmtPos1 sd i = (x, y)) :
    formatCell sd x y = some (.formatInfo i 1) := by
  have hnone : ((List.range 15).find? fun j => fmtPos0 j == (x, y)) = none :=
    List.find?_eq_none.mpr fun j hj hxy =>
      fmtPos0_ne_fmtPos1 hsd (List.mem_range.mp hj) hi ((beq_iff_eq.mp hxy).trans h.symm)
  have hfind : ((List.range 15).find? fun j => fmtPos1 sd j == (x, y)) = some i :=
    find?_eq_some_of_unique (List.mem_range.mpr hi) (beq_iff_eq.mpr h) fun j hj hxy =>
      fmtPos1_inj hsd (List.mem_range.mp hj) hi ((beq_iff_eq.mp hxy).trans h.symm)
  rw [formatCell, hnone, hfind]
  rfl

theorem formatCell_place {c : Cell} (h : formatCell sd x y = some c) :
    ∃ i copy, c = .formatInfo i copy ∧ i < 15 ∧ (fmtPos0 i = (x, y) ∨ fmtPos1 sd i = (x, y)) := by
  unfold formatCell at h
  split at h
  next i hi =>
    cases h
    obtain ⟨hi, hpos⟩ := of_find?_pos hi
    exact ⟨i, 0, rfl, hi, .inl hpos⟩
  next =>
    obtain ⟨i, hi, rfl⟩ := Option.map_eq_some_iff.mp h
    obtain ⟨hi, hpos⟩ := of_find?_pos hi
    exact ⟨i, 1, rfl, hi, .inr hpos⟩

theorem onFormatLines_of_formatCell {c : Cell} (hsd : 21 ≤ sd) (h : formatCell sd x y = some c) : OnFormatLines sd x y := by
  obtain ⟨i, _, -, hi, hpos | hpos⟩ := formatCell_place h
  · exact (fmtPos0_place hi hpos sd).1
  · exact (fmtPos1_place hsd hi hpos).1

end

section
variable {v i x y : Nat}

theorem versionCell_copy0 (hv : 7 ≤ v) (hi : i < 18) (h : verPos0 (side v) i = (x, y)) :
    versionCell v x y = some (.versionInfo i 0) := by
  have hfind : ((List.range 18).find? fun j => verPos0 (side v) j == (x, y)) = some i := by
    refine find?_eq_some_of_unique (List.mem_range.mpr hi) (beq_iff_eq.mpr h) fun j hj hxy => ?_
    have heq := (beq_iff_eq.mp hxy).trans h.symm
    simp only [verPos0, Prod.mk.injEq] at heq
    omega
  rw [versionCell, if_neg (by omega), hfind]

theorem versionCell_copy1 (hv : 7 ≤ v) (hi : i < 18) (h : verPos1 (side v) i = (x, y)) :
    versionCell v x y = some (.versionInfo i 1) := by
  have hnone : ((List.range 18).find? fun j => verPos0 (side v) j == (x, y)) = none := by
    refine List.find?_eq_none.mpr fun j hj hxy => ?_
    have heq := (beq_iff_eq.mp hxy).trans h.symm
    have hj := List.mem_range.mp hj
    simp only [verPos0, verPos1, side, Prod.mk.injEq] at heq
    omega
  have hfind : ((List.range 18).find? fun j => verPos1 (side v) j == (x, y)) = some i := by
    refine find?_eq_some_of_unique (List.mem_range.mpr hi) (beq_iff_eq.mpr h) fun j hj hxy => ?_
    have heq := (beq_iff_eq.mp hxy).trans h.symm
    simp only [verPos1, Prod.mk.injEq] at heq
    omega
  rw [versionCell, if_neg (by omega), hnone, hfind]
  rfl

theorem versionCell_place {c : Cell} (h : versionCell v x y = some c) :
    7 ≤ v ∧ ∃ i copy, c = .versionInfo i copy ∧ i < 18 ∧ (verPos0 (side v) i = (x, y) ∨ verPos1 (side v) i = (x, y)) := by
  unfold versionCell at h
  split_ifs at h with hv
  refine ⟨by omega, ?_⟩
  split at h
  next i hi =>
    cases h
    obtain ⟨hi, hpos⟩ := of_find?_pos hi
    exact ⟨i, 0, rfl, hi, .inl hpos⟩
  next =>
    obtain ⟨i, hi, rfl⟩ := Option.map_eq_some_iff.mp h
    obtain ⟨hi, hpos⟩ := of_find?_pos hi
    exact ⟨i, 1, rfl, hi, .inr hpos⟩

theorem inVersionBlock_of_verPos (hv : 7 ≤ v) (hi : i < 18)
    (h : verPos0 (side v) i = (x, y) ∨ verPos1 (side v) i = (x, y)) : InVersionBlock (side v) x y := by
  simp only [verPos0, verPos1, Prod.mk.injEq, side] at h
  rw [InVersionBlock, side]
  omega

end

/-! The step that assigns a cell (R196). -/

section
variable {v x y : Nat} {c : Nat × Nat}

theorem functionCell_finder (h1 : 1 ≤ v) (hc : c ∈ finderCentres (side v)) (hring : ring c.1 c.2 x y ≤ 3) :
    functionCell v x y = some (.finderPattern (ring c.1 c.2 x y != 2)) := by
  simp [functionCell, finderCell_eq_some (le_side h1) hc hring]

theorem functionCell_separator (h1 : 1 ≤ v) (hc : c ∈ finderCentres (side v))
    (hring : ring c.1 c.2 x y = 4) : functionCell v x y = some (.separator false) := by
  have hfinder : finderCell (side v) x y = none := by
    refine finderCell_eq_none fun b hb => not_le.mp fun hnear => ?_
    have hside := le_side h1
    have hle : ring c.1 c.2 x y ≤ 4 := hring.le
    have hgt : ¬ ring c.1 c.2 x y ≤ 3 := by omega
    rw [mem_finderCentres] at hb hc
    rw [ring_le_iff] at hnear hle hgt
    omega
  simp [functionCell, hfinder, separatorCell_eq_some hc hring]

/-- Outside the corners the steps from the alignment patterns on decide. -/
theorem functionCell_of_not_inCorner (hcorner : ¬ InCorner (side v) x y) :
    functionCell v x y = (alignmentCell v x y <|> timingCell x y <|> darkCell (side v) x y <|> formatCell (side v) x y
      <|> versionCell v x y) := by
  obtain ⟨hfinder, hseparator⟩ := cornerSteps_eq_none hcorner
  simp [functionCell, hfinder, hseparator]

theorem functionCell_alignment (h40 : v ≤ 40) (hc : c ∈ alignCentres v)
    (hring : ring c.1 c.2 x y ≤ 2) : functionCell v x y = some (.alignmentPattern (ring c.1 c.2 x y != 1)) := by
  rw [functionCell_of_not_inCorner (not_inCorner_of_alignment h40 hc hring), alignmentCell_eq_some h40 hc hring]
  rfl

theorem functionCell_timing {cell : Cell} (hcorner : ¬ InCorner (side v) x y)
    (halign : ∀ c ∈ alignCentres v, 2 < ring c.1 c.2 x y) (htiming : timingCell x y = some cell) :
    functionCell v x y = some cell := by
  rw [functionCell_of_not_inCorner hcorner, alignmentCell_eq_none halign, htiming]
  rfl

theorem timingCell_eq_none (hx : x ≠ 6) (hy : y ≠ 6) : timingCell x y = none := by
  rw [timingCell, if_neg hy, if_neg hx]

theorem functionCell_dark (h1 : 1 ≤ v) (h40 : v ≤ 40) : functionCell v 8 (side v - 8) = some (.otherFixed true) := by
  have hside := le_side h1
  rw [functionCell_of_not_inCorner (by rw [InCorner]; omega),
    alignmentCell_eq_none_of_information h1 h40 (.inr (.inr ⟨rfl, rfl⟩)), timingCell_eq_none (by decide) (by omega),
    darkCell, if_pos ⟨rfl, rfl⟩]
  rfl

theorem functionCell_format {cell : Cell} (h1 : 1 ≤ v) (h40 : v ≤ 40)
    (hplace : OnFormatLines (side v) x y ∧ x ≠ 6 ∧ y ≠ 6) (hformat : formatCell (side v) x y = some cell) :
    functionCell v x y = some cell := by
  obtain ⟨hlines, hx6, hy6⟩ := hplace
  have halign := alignmentCell_eq_none_of_information h1 h40 (.inl hlines)
  have hside := le_side h1
  rw [OnFormatLines] at hlines
  rw [functionCell_of_not_inCorner (by rw [InCorner]; omega), halign, timingCell_eq_none hx6 hy6, darkCell,
    if_neg (by omega), hformat]
  rfl

theorem functionCell_version {cell : Cell} (hv : 7 ≤ v) (h40 : v ≤ 40)
    (hblock : InVersionBlock (side v) x y) (hversion : versionCell v x y = some cell) : functionCell v x y = some cell := by
  have h1 : 1 ≤ v := by omega
  have halign := alignmentCell_eq_none_of_information h1 h40 (.inr (.inl hblock))
  have hside : 45 ≤ side v := by rw [side]; omega
  rw [InVersionBlock] at hblock
  have hformat : formatCell (side v) x y = none := by
    refine Option.eq_none_iff_forall_not_mem.mpr fun cell hcell => ?_
    have hlines := onFormatLines_of_formatCell (le_side h1) hcell
    rw [OnFormatLines] at hlines
    omega
  rw [functionCell_of_not_inCorner (by rw [InCorner]; omega), halign, timingCell_eq_none (by omega) (by omega), darkCell,
    if_neg (by omega), hformat, hversion]
  rfl

end

/-- Where each step of the construction puts the cells it assigns (R197 to R205). -/
def CellPlaced (v x y : Nat) : Cell → Prop
  | .finderPattern _ => ∃ c ∈ finderCentres (side v), ring c.1 c.2 x y ≤ 3
  | .separator _ => ∃ c ∈ finderCentres (side v), ring c.1 c.2 x y = 4
  | .timingPattern _ => x = 6 ∨ y = 6
  | .alignmentPattern _ => ∃ c ∈ alignCentres v, ring c.1 c.2 x y ≤ 2
  | .otherFixed value => value = true ∧ x = 8 ∧ y = side v - 8
  | .formatInfo _ _ => OnFormatLines (side v) x y
  | .versionInfo _ _ => 7 ≤ v ∧ InVersionBlock (side v) x y
  | .data _ _ _ _ => False
  | .ecc _ _ _ _ => False
  | .padding => False
  | .unassigned => False

/-- A cell assigned before the walk is of one of the seven first types and lies where its rule puts it. -/
theorem cellPlaced_functionCell {v x y : Nat} {cell : Cell} (h1 : 1 ≤ v) (h : functionCell v x y = some cell) :
    CellPlaced v x y cell := by
  simp only [functionCell, Option.orElse_eq_some] at h
  obtain h | ⟨-, h | ⟨-, h | ⟨-, h | ⟨-, h | ⟨-, h | ⟨-, h⟩⟩⟩⟩⟩⟩ := h
  · obtain ⟨c, hc, rfl⟩ := Option.map_eq_some_iff.mp h
    exact ⟨c, of_find?_ring hc⟩
  · rw [separatorCell] at h
    split_ifs at h with hany
    cases h
    obtain ⟨c, hc, hring⟩ := List.any_eq_true.mp hany
    exact ⟨c, hc, beq_iff_eq.mp hring⟩
  · obtain ⟨c, hc, rfl⟩ := Option.map_eq_some_iff.mp h
    exact ⟨c, of_find?_ring hc⟩
  · rw [timingCell] at h
    split_ifs at h with hy hx
    · cases h
      exact .inr hy
    · cases h
      exact .inl hx
  · rw [darkCell] at h
    split_ifs at h with hdark
    cases h
    exact ⟨rfl, hdark⟩
  · obtain ⟨i, copy, rfl, -⟩ := formatCell_place h
    exact onFormatLines_of_formatCell (le_side h1) h
  · obtain ⟨hv, i, copy, rfl, hi, hpos⟩ := versionCell_place h
    exact ⟨hv, inVersionBlock_of_verPos hv hi hpos⟩

end Sys2Proof.Proofs
end

section
/-! What CELL answers for the fixed patterns and the information cells (R197 to R205, R222). -/

namespace Sys2Proof.Proofs

open Sys2Proof Sys2Proof.Machine Sys2Proof.Claims

theorem layoutCell_of_functionCell {v x y : Nat} {cell : Cell} (h : functionCell v x y = some cell) (l : Level) :
    layoutCell v l x y = cell := by
  rw [layoutCell, cellWith, h]

/-- The image of a module's value: light on one ring. -/
theorem toNat_bne (m n : Nat) : (m != n).toNat = if m = n then 0 else 1 := by
  by_cases h : m = n <;> simp [h]

theorem apart_add_left (a b c : Nat) : apart (a + b) (a + c) = apart b c := by
  rw [apart, apart]
  omega

theorem mem_finderCorners {s : State} {c : Nat × Nat} :
    c ∈ finderCorners s ↔ (c.1 = 0 ∨ c.1 = curSide s - 7) ∧ (c.2 = 0 ∨ c.2 = curSide s - 7) ∧ (c.1 = 0 ∨ c.2 = 0) := by
  simp only [finderCorners, List.mem_cons, List.not_mem_nil, or_false, Prod.ext_iff]
  omega

theorem isAlignmentCentre_iff {s : State} {cx cy : Nat} :
    IsAlignmentCentre s cx cy ↔ (cx, cy) ∈ alignCentres (curVersion s) :=
  (mem_alignCentres (v := curVersion s) (c := (cx, cy))).symm

theorem inAlignment_iff {s : State} {x y : Nat} : InAlignment s x y ↔ ∃ c ∈ alignCentres (curVersion s), ring c.1 c.2 x y ≤ 2 := by
  simp only [InAlignment, isAlignmentCentre_iff, ring_eq, max_le_iff, Prod.exists]

section
variable {s : State} (hs : HasLayout s)
include hs

theorem curSide_ge : 21 ≤ curSide s := by
  obtain ⟨-, h1, -⟩ := hs
  exact le_side h1

/-- The centre of a finder block is 3 cells from its corner both ways (R197). -/
theorem centre_of_corner {c : Nat × Nat} (hc : c ∈ finderCorners s) : (c.1 + 3, c.2 + 3) ∈ finderCentres (curSide s) := by
  have hside := curSide_ge hs
  rw [mem_finderCorners] at hc
  rw [mem_finderCentres]
  omega

theorem exec_cell_of_functionCell {x y : Nat} {cell : Cell} (hx : x < curSide s) (hy : y < curSide s)
    (h : functionCell (curVersion s) x y = some cell) :
    exec (.cell x y) s = .next (cellResult cell.code cell.r1 cell.r2 s) := by
  obtain ⟨hlay, -, -⟩ := hs
  rw [exec_cell_of_lt hlay hx hy, curCell, layoutCell_of_functionCell h]
  rfl

theorem exec_cell_alignment {c : Nat × Nat} {x y : Nat} (hx : x < curSide s) (hy : y < curSide s)
    (hc : c ∈ alignCentres (curVersion s)) (hring : ring c.1 c.2 x y ≤ 2) :
    exec (.cell x y) s = .next (cellResult 3 (if max (apart x c.1) (apart y c.2) = 1 then 0 else 1) 0 s) := by
  have ⟨_, _, h40⟩ := hs
  rw [exec_cell_of_functionCell hs hx hy (functionCell_alignment h40 hc hring), Cell.r1, toNat_bne, ring_eq]
  rfl

/-- Bit i of the format word is named at its cell of R204. -/
theorem exec_cell_format0 {i x y : Nat} (hi : i < 15) (h : fmtPos0 i = (x, y)) (hx : x < curSide s) (hy : y < curSide s) :
    exec (.cell x y) s = .next (cellResult 5 i 0 s) := by
  have ⟨_, h1, h40⟩ := hs
  exact exec_cell_of_functionCell hs hx hy
    (functionCell_format h1 h40 (fmtPos0_place hi h _) (formatCell_copy0 hi h))

theorem exec_cell_format1 {i x y : Nat} (hi : i < 15) (h : fmtPos1 (curSide s) i = (x, y)) (hx : x < curSide s)
    (hy : y < curSide s) : exec (.cell x y) s = .next (cellResult 5 i 1 s) := by
  have ⟨_, h1, h40⟩ := hs
  exact exec_cell_of_functionCell hs hx hy
    (functionCell_format h1 h40 (fmtPos1_place (curSide_ge hs) hi h) (formatCell_copy1 (curSide_ge hs) hi h))

/-- Bit i of the version word is named at both its cells of R205. -/
theorem exec_cell_version (hv : 7 ≤ curVersion s) {i : Nat} (hi : i < 18) :
    exec (.cell (curSide s - 11 + i % 3) (i / 3)) s = .next (cellResult 6 i 0 s) ∧
    exec (.cell (i / 3) (curSide s - 11 + i % 3)) s = .next (cellResult 6 i 1 s) := by
  have ⟨_, _, h40⟩ := hs
  have hside := curSide_ge hs
  have hfar : curSide s - 11 + i % 3 < curSide s := by omega
  have hnear : i / 3 < curSide s := by omega
  exact ⟨exec_cell_of_functionCell hs hfar hnear
      (functionCell_version hv h40 (inVersionBlock_of_verPos hv hi (.inl rfl)) (versionCell_copy0 hv hi rfl)),
    exec_cell_of_functionCell hs hnear hfar
      (functionCell_version hv h40 (inVersionBlock_of_verPos hv hi (.inr rfl)) (versionCell_copy1 hv hi rfl))⟩

theorem exec_cell_timing {x y : Nat} {value : Bool} (hx : x < curSide s) (hy : y < curSide s)
    (hcorner : ¬ InCorner (curSide s) x y) (halign : ¬ InAlignment s x y)
    (htiming : timingCell x y = some (.timingPattern value)) :
    exec (.cell x y) s = .next (cellResult 2 value.toNat 0 s) := by
  rw [inAlignment_iff] at halign
  push Not at halign
  exact exec_cell_of_functionCell hs hx hy (functionCell_timing hcorner halign htiming)

end

/-- Settles O32: a cell of the block is on ring 3 or less of the block's centre. -/
theorem finderBlocks : Obligations.FinderBlocks := by
  unfold Obligations.FinderBlocks
  intro s c dx dy hs hc hdx hdy
  have ⟨_, h1, _⟩ := hs
  have hcentre := centre_of_corner hs hc
  have hside := curSide_ge hs
  have hring : ring (c.1 + 3) (c.2 + 3) (c.1 + dx) (c.2 + dy) ≤ 3 := by
    rw [ring_le_iff]
    omega
  rw [mem_finderCorners] at hc
  rw [exec_cell_of_functionCell hs (by omega) (by omega) (functionCell_finder h1 hcentre hring), Cell.r1, toNat_bne,
    ring_eq, apart_add_left, apart_add_left]
  rfl

theorem exec_cell_separator {s : State} (hs : HasLayout s) {c : Nat × Nat} {x y : Nat} (hc : c ∈ finderCorners s)
    (hx : x < curSide s) (hy : y < curSide s) (hnear : (c.1 ≤ x + 1 ∧ x ≤ c.1 + 7) ∧ c.2 ≤ y + 1 ∧ y ≤ c.2 + 7)
    (hedge : x + 1 = c.1 ∨ x = c.1 + 7 ∨ y + 1 = c.2 ∨ y = c.2 + 7) :
    exec (.cell x y) s = .next (cellResult 1 0 0 s) := by
  have hring : ring (c.1 + 3) (c.2 + 3) x y = 4 := by
    refine le_antisymm (ring_le_iff.mpr (by omega)) (not_lt.mp fun hlt => ?_)
    have hblock := ring_le_iff.mp (Nat.le_of_lt_succ hlt)
    omega
  have ⟨_, h1, _⟩ := hs
  exact exec_cell_of_functionCell hs hx hy (functionCell_separator h1 (centre_of_corner hs hc) hring)

/-- A timing module is dark at the even places (R200). -/
theorem toNat_even (i : Nat) : (i % 2 == 0).toNat = (i + 1) % 2 := by
  obtain h | h := Nat.mod_two_eq_zero_or_one i <;> simp [h] <;> omega

/-- Settles O33: the cells of ring 4 about a finder centre, and the lines 6 between them. -/
theorem separatorsAndTiming : Obligations.SeparatorsAndTiming := by
  unfold Obligations.SeparatorsAndTiming
  refine fun s hs => ⟨fun c x y hc hx hy h1 h2 h3 h4 => exec_cell_separator hs hc hx hy ⟨⟨h1, h2⟩, h3, h4⟩, ?_⟩
  intro i hi hi'
  have hside := curSide_ge hs
  have hin : i < curSide s := by omega
  have hin6 : 6 < curSide s := by omega
  refine ⟨fun halign => ?_, fun halign => ?_, fun cx cy hc => ⟨fun hx hy => ?_, fun hx hy => ?_⟩⟩
  · rw [← toNat_even]
    exact exec_cell_timing hs hin hin6 (by rw [InCorner]; omega) halign rfl
  · have htiming : timingCell 6 i = some (.timingPattern (i % 2 == 0)) := by
      rw [timingCell, if_neg (by omega), if_pos rfl]
    rw [← toNat_even]
    exact exec_cell_timing hs hin6 hin (by rw [InCorner]; omega) halign htiming
  · exact exec_cell_alignment (c := (cx, cy)) hs hin hin6 (isAlignmentCentre_iff.mp hc) (by rw [ring_eq]; exact max_le hx hy)
  · exact exec_cell_alignment (c := (cx, cy)) hs hin6 hin (isAlignmentCentre_iff.mp hc) (by rw [ring_eq]; exact max_le hx hy)

/-- Settles O34: a cell of the block is on ring 2 or less of the block's centre. -/
theorem alignmentBlocks : Obligations.AlignmentBlocks := by
  unfold Obligations.AlignmentBlocks
  intro s cx cy dx dy hs hcx hcy h66 hright hbottom hdx hdy
  have hc : (cx, cy) ∈ alignCentres (curVersion s) := mem_alignCentres.mpr ⟨hcx, hcy, h66, hright, hbottom⟩
  have ⟨_, _, h40⟩ := hs
  have hplace := alignCentre_place h40 hc
  have hside := curSide_ge hs
  rw [← curSide.eq_def] at hplace
  obtain ⟨hcx, hcx'⟩ : 2 ≤ cx ∧ cx + 7 ≤ curSide s := by omega
  obtain ⟨hcy, hcy'⟩ : 2 ≤ cy ∧ cy + 7 ≤ curSide s := by omega
  have hdistx : apart (cx - 2 + dx) cx = apart dx 2 := by
    rw [← apart_add_left (cx - 2) dx 2, Nat.sub_add_cancel hcx]
  have hdisty : apart (cy - 2 + dy) cy = apart dy 2 := by
    rw [← apart_add_left (cy - 2) dy 2, Nat.sub_add_cancel hcy]
  rw [exec_cell_alignment hs (by omega) (by omega) hc (ring_le_iff.mpr (by omega)), hdistx, hdisty]

/-- Settles O35: the cells of R204 and R205 one by one. -/
theorem informationCells : Obligations.InformationCells := by
  unfold Obligations.InformationCells
  intro s hs
  have hside := curSide_ge hs
  refine ⟨fun i hi => ⟨?_, ?_⟩, ?_, ?_, ?_, ?_, ?_, ?_, fun i h9 hi => ⟨?_, ?_⟩,
    fun hv i hi => exec_cell_version hs hv (by omega)⟩
  · exact exec_cell_format0 hs (by omega) (if_pos hi) (by omega) (by omega)
  · exact exec_cell_format1 hs (by omega) (if_pos hi) (by omega) (by omega)
  · exact exec_cell_format0 hs (by decide) rfl (by omega) (by omega)
  · exact exec_cell_format1 hs (by decide) rfl (by omega) (by omega)
  · exact exec_cell_format0 hs (by decide) rfl (by omega) (by omega)
  · exact exec_cell_format1 hs (by decide) rfl (by omega) (by omega)
  · exact exec_cell_format0 hs (by decide) rfl (by omega) (by omega)
  · exact exec_cell_format1 hs (by decide) rfl (by omega) (by omega)
  · exact exec_cell_format0 hs (by omega) (fmtPos0_of_ge h9) (by omega) (by omega)
  · exact exec_cell_format1 hs (by omega) (fmtPos1_of_ge h9 _) (by omega) (by omega)

end Sys2Proof.Proofs
end

section
/-! The data walk in the order of R206: it passes every cell off column 6 once, so the cells it assigns are those no earlier
step has (R206, R208). -/

namespace Sys2Proof.Proofs

open Sys2Proof Sys2Proof.Machine Sys2Proof.Claims

/-! The strips. -/

/-- The right columns from column 2n + 6 on, the timing column passed over. -/
def columnsFrom (n : Nat) : List Nat := ((List.range n).map fun i => 2 * n + 6 - 2 * i) ++ [5, 3, 1]

theorem columnsFrom_succ (n : Nat) : columnsFrom (n + 1) = (2 * n + 8) :: columnsFrom n := by
  rw [columnsFrom, List.range_succ_eq_map, List.map_cons, List.map_map, columnsFrom, List.cons_append]
  congr 3
  funext i
  simp only [Function.comp, Nat.succ_eq_add_one]
  omega

/-- The strips of the model and their columns counted, the direction changing with each. -/
theorem stripsFrom_eq (n j fuel : Nat) :
    stripsFrom (fuel + n + 4) (2 * n + 6) (decide (j % 2 = 0)) =
      ((columnsFrom n).zipIdx j).map fun strip => (strip.1, decide (strip.2 % 2 = 0)) := by
  have hnext : ∀ j, (!decide (j % 2 = 0)) = decide ((j + 1) % 2 = 0) := fun j => by
    rw [← decide_not, decide_eq_decide]
    omega
  induction n generalizing j with
  | zero => simp [stripsFrom, columnsFrom, hnext]
  | succ n ih =>
    rw [columnsFrom_succ, List.zipIdx_cons, List.map_cons, ← ih (j + 1), ← hnext]
    rw [show fuel + (n + 1) + 4 = (fuel + n + 4) + 1 by omega, stripsFrom, if_neg (by omega), if_neg (by omega)]
    rfl

theorem rightColumns_side (v : Nat) : rightColumns (side v) = columnsFrom (2 * v + 5) := by
  rw [rightColumns, columnsFrom, side, show (4 * v + 17 - 7) / 2 = 2 * v + 5 by omega]
  congr 2
  funext i
  omega

/-- The zigzag of the statement, strip by strip of the model's. -/
theorem zigzag_eq (sd : Nat) :
    zigzag sd = (rightColumns sd).zipIdx.flatMap fun strip => stripCells sd (strip.1, decide (strip.2 % 2 = 0)) := by
  simp only [zigzag, stripCells, decide_eq_true_eq]

/-- The walk is the zigzag of R206 over the cells still Unassigned. -/
theorem walk_eq (v : Nat) : walk v = (zigzag (side v)).filter fun c => (functionCell v c.1 c.2).isNone := by
  have hstrips : stripsFrom (side v) (side v - 1) true =
      ((rightColumns (side v)).zipIdx).map fun strip => (strip.1, decide (strip.2 % 2 = 0)) := by
    rw [rightColumns_side, ← stripsFrom_eq (2 * v + 5) 0 (2 * v + 8), side]
    congr 1 <;> omega
  rw [walk, zigzag_eq, hstrips, List.flatMap_map]

/-! The cells of the zigzag. -/

theorem mem_columnsFrom {n c : Nat} :
    c ∈ columnsFrom n ↔ c = 5 ∨ c = 3 ∨ c = 1 ∨ 8 ≤ c ∧ c ≤ 2 * n + 6 ∧ c % 2 = 0 := by
  induction n with
  | zero =>
    simp only [columnsFrom, List.range_zero, List.map_nil, List.nil_append, List.mem_cons, List.not_mem_nil, or_false]
    omega
  | succ n ih =>
    rw [columnsFrom_succ, List.mem_cons, ih]
    omega

theorem columnsFrom_falling (n : Nat) : (columnsFrom n).Pairwise fun a b => b + 2 ≤ a := by
  induction n with
  | zero => decide
  | succ n ih =>
    rw [columnsFrom_succ, List.pairwise_cons]
    refine ⟨fun c hc => ?_, ih⟩
    rw [mem_columnsFrom] at hc
    omega

theorem mem_stripCells {sd : Nat} {strip : Nat × Bool} {c : Nat × Nat} :
    c ∈ stripCells sd strip ↔ c.2 < sd ∧ (c.1 = strip.1 ∨ c.1 = strip.1 - 1) := by
  have hrows : ∀ y, y ∈ (if strip.2 then (List.range sd).reverse else List.range sd) ↔ y < sd := fun y => by
    split_ifs <;> simp
  simp only [stripCells, List.mem_flatMap, hrows, List.mem_cons, List.not_mem_nil, or_false, Prod.ext_iff]
  constructor
  · rintro ⟨y, hy, ⟨hx, rfl⟩ | ⟨hx, rfl⟩⟩
    · exact ⟨hy, .inl hx⟩
    · exact ⟨hy, .inr hx⟩
  · rintro ⟨hy, hx | hx⟩
    · exact ⟨c.2, hy, .inl ⟨hx, rfl⟩⟩
    · exact ⟨c.2, hy, .inr ⟨hx, rfl⟩⟩

theorem stripCells_nodup {sd : Nat} {strip : Nat × Bool} (h : 1 ≤ strip.1) : (stripCells sd strip).Nodup := by
  have hrows : (if strip.2 then (List.range sd).reverse else List.range sd).Nodup := by
    split_ifs
    · exact List.nodup_reverse.mpr List.nodup_range
    · exact List.nodup_range
  refine List.nodup_flatMap.mpr ⟨fun y _ => ?_, hrows.imp fun hne c hc hc' => hne ?_⟩
  · simp
    omega
  · simp only [List.mem_cons, List.not_mem_nil, or_false, Prod.ext_iff] at hc hc'
    omega

/-- The zigzag passes every cell off the timing column. -/
theorem mem_zigzag {v : Nat} {c : Nat × Nat} : c ∈ zigzag (side v) ↔ c.1 < side v ∧ c.2 < side v ∧ c.1 ≠ 6 := by
  have hstrip : ∀ p : Nat → Prop, (∃ strip ∈ (rightColumns (side v)).zipIdx, p strip.1) ↔ ∃ r ∈ rightColumns (side v), p r := by
    intro p
    conv_rhs => rw [← List.zipIdx_map_fst 0 (rightColumns (side v))]
    simp only [List.mem_map, exists_exists_and_eq_and]
  simp only [zigzag_eq, List.mem_flatMap, mem_stripCells]
  rw [hstrip fun r => c.2 < side v ∧ (c.1 = r ∨ c.1 = r - 1), rightColumns_side]
  simp only [mem_columnsFrom, side]
  constructor
  · rintro ⟨r, hr, hy, hx⟩
    omega
  · rintro ⟨hx, hy, h6⟩
    by_cases hleft : c.1 ≤ 5
    · exact ⟨c.1 + (c.1 + 1) % 2, by omega, hy, by omega⟩
    · exact ⟨c.1 + c.1 % 2, by omega, hy, by omega⟩

/-- It passes none twice: the columns of its strips are two apart. -/
theorem zigzag_nodup (v : Nat) : (zigzag (side v)).Nodup := by
  have hcolumns := columnsFrom_falling (2 * v + 5)
  rw [← rightColumns_side, ← List.zipIdx_map_fst 0 (rightColumns (side v)), List.pairwise_map] at hcolumns
  rw [zigzag_eq]
  refine List.nodup_flatMap.mpr ⟨fun strip hstrip => stripCells_nodup ?_, hcolumns.imp fun hfar c hc hc' => ?_⟩
  · have hmem := List.mem_map_of_mem (f := Prod.fst) hstrip
    rw [List.zipIdx_map_fst, rightColumns_side, mem_columnsFrom] at hmem
    dsimp only
    omega
  · simp only [mem_stripCells] at hc hc'
    omega

/-! The walk. -/

theorem functionCell_column6 (v y : Nat) : functionCell v 6 y ≠ none := by
  have htiming : timingCell 6 y ≠ none := by
    by_cases hy : y = 6 <;> simp [timingCell, hy]
  simp [functionCell, htiming]

/-- The walk assigns the cells of the grid that no earlier step has (R206). -/
theorem mem_walk {v : Nat} {c : Nat × Nat} :
    c ∈ walk v ↔ c.1 < side v ∧ c.2 < side v ∧ functionCell v c.1 c.2 = none := by
  rw [walk_eq, List.mem_filter, mem_zigzag, Option.isNone_iff_eq_none]
  refine ⟨fun ⟨⟨hx, hy, _⟩, hnone⟩ => ⟨hx, hy, hnone⟩, fun ⟨hx, hy, hnone⟩ => ⟨⟨hx, hy, fun h6 => ?_⟩, hnone⟩⟩
  rw [h6] at hnone
  exact functionCell_column6 v c.2 hnone

theorem walk_nodup (v : Nat) : (walk v).Nodup := by
  rw [walk_eq]
  exact (zigzag_nodup v).filter _

/-- The n-th cell of the walk takes the n-th place of the stream (R206). -/
theorem layoutCell_of_walk {v n x y : Nat} (h : (walk v)[n]? = some (x, y)) (l : Level) :
    layoutCell v l x y = walkedCell (cwStream (blockRow v l)) n := by
  obtain ⟨-, -, hnone⟩ := mem_walk.mp (List.mem_of_getElem? h)
  obtain ⟨hn, hget⟩ := List.getElem?_eq_some_iff.mp h
  have hindex : ((walk v).findIdx? fun c => c == (x, y)) = some n := by
    refine List.findIdx?_eq_some_iff_getElem.mpr ⟨hn, beq_iff_eq.mpr hget, fun j hj heq => ?_⟩
    have hsame := (walk_nodup v).getElem_inj_iff.mp ((beq_iff_eq.mp heq).trans hget.symm)
    omega
  dsimp only at hnone
  rw [layoutCell, cellWith, hnone, hindex]

/-- Every cell of a layout is assigned by an earlier step or by the walk (R196, R208). -/
theorem layoutCell_cases {v x y : Nat} (hx : x < side v) (hy : y < side v) :
    (∃ cell, functionCell v x y = some cell ∧ ∀ l, layoutCell v l x y = cell) ∨
    ∃ n, (walk v)[n]? = some (x, y) ∧ ∀ l, layoutCell v l x y = walkedCell (cwStream (blockRow v l)) n := by
  obtain hnone | ⟨cell, hcell⟩ := (functionCell v x y).eq_none_or_eq_some
  · have hmem : (x, y) ∈ walk v := mem_walk.mpr ⟨hx, hy, hnone⟩
    obtain ⟨n, hn⟩ := List.mem_iff_getElem?.mp hmem
    exact .inr ⟨n, hn, layoutCell_of_walk hn⟩
  · exact .inl ⟨cell, hcell, layoutCell_of_functionCell hcell⟩

end Sys2Proof.Proofs
end

section
/-! CELL and MASKBIT over the whole grid: every cell has one of the ten final types, each where its rule puts it, and the mask
flips the cells of the walk (R193, R208, R212, R213, R222, R223). -/

namespace Sys2Proof.Proofs

open Sys2Proof Sys2Proof.Machine Sys2Proof.Claims

/-- The type code of a codeword's cells (R193, R195). -/
def kindCode : CwKind → Nat
  | .data => 7
  | .ecc => 8

theorem walkedCell_of_none {stream : List CwEntry} {n : Nat} (h : stream[n / 8]? = none) : walkedCell stream n = .padding := by
  rw [walkedCell, h]

/-- What CELL answers for a cell that carries a bit of a codeword (R206, R222). -/
theorem walkedCell_of_some {stream : List CwEntry} {n : Nat} {e : CwEntry} (h : stream[n / 8]? = some e) :
    (walkedCell stream n).code = kindCode e.kind ∧ (walkedCell stream n).r1 = n / 8 ∧
    (walkedCell stream n).r2 = (7 - n % 8) ||| e.block <<< 8 ||| e.index <<< 16 := by
  obtain ⟨kind, block, index⟩ := e
  cases kind <;> simp [walkedCell, h, kindCode, Cell.code, Cell.r1, Cell.r2]

theorem walkedCell_code (stream : List CwEntry) (n : Nat) :
    (walkedCell stream n).code = 7 ∨ (walkedCell stream n).code = 8 ∨ (walkedCell stream n).code = 9 := by
  cases hentry : stream[n / 8]? with
  | none => simp [walkedCell_of_none hentry, Cell.code]
  | some e =>
    obtain ⟨hcode, -, -⟩ := walkedCell_of_some hentry
    rw [hcode]
    cases e.kind <;> simp [kindCode]

/-- The types a mask flips are those with the codes 7, 8 and 9 (R193, R212). -/
theorem maskable_iff (c : Cell) : c.maskable = true ↔ c.code = 7 ∨ c.code = 8 ∨ c.code = 9 := by
  cases c <;> simp [Cell.maskable, Cell.code]

theorem maskPred_iff (m x y : Nat) : maskPred m x y = true ↔ MaskHolds m x y := by
  unfold maskPred
  split <;> simp [MaskHolds]

section
variable {v x y : Nat}

theorem code_le_of_cellPlaced {cell : Cell} (h : CellPlaced v x y cell) : cell.code ≤ 6 := by
  cases cell <;> simp [Cell.code, CellPlaced] at h ⊢

/-- No cell is left Unassigned (R208). -/
theorem layoutCell_code_le (h1 : 1 ≤ v) (hx : x < side v) (hy : y < side v) (l : Level) : (layoutCell v l x y).code ≤ 9 := by
  obtain ⟨cell, hcell, hlayout⟩ | ⟨n, -, hlayout⟩ := layoutCell_cases hx hy
  · rw [hlayout]
    exact (code_le_of_cellPlaced (cellPlaced_functionCell h1 hcell)).trans (by decide)
  · rw [hlayout]
    have hcode := walkedCell_code (cwStream (blockRow v l)) n
    omega

theorem layoutCell_ne_unassigned (h1 : 1 ≤ v) (hx : x < side v) (hy : y < side v) (l : Level) :
    layoutCell v l x y ≠ .unassigned := by
  intro h
  have hcode := layoutCell_code_le h1 hx hy l
  rw [h] at hcode
  exact absurd hcode (by decide)

/-- A mask flips the same cells at every level (R212). -/
theorem maskArr_level (hx : x < side v) (hy : y < side v) (l l' : Level) (m : Nat) :
    maskArr v l m x y = maskArr v l' m x y := by
  have hwalked : ∀ l n, (walkedCell (cwStream (blockRow v l)) n).maskable = true := fun l n =>
    (maskable_iff _).mpr (walkedCell_code _ n)
  rw [maskArr, maskArr]
  obtain ⟨cell, -, hlayout⟩ | ⟨n, -, hlayout⟩ := layoutCell_cases hx hy
  · rw [hlayout, hlayout]
  · rw [hlayout, hlayout, hwalked, hwalked]

end

section
variable {s : State} (hs : HasLayout s) {x y : Nat} (hx : x < curSide s) (hy : y < curSide s)
include hs

include hx hy in
theorem exec_cell_curCell : exec (.cell x y) s =
    .next (cellResult (curCell s x y).code (curCell s x y).r1 (curCell s x y).r2 s) := by
  obtain ⟨hlay, -, -⟩ := hs
  exact exec_cell_of_lt hlay hx hy

/-- A finder block is 3 cells about its centre both ways (R197). -/
theorem corner_of_centre {c : Nat × Nat} (hc : c ∈ finderCentres (curSide s)) :
    (c.1 - 3, c.2 - 3) ∈ finderCorners s ∧ 3 ≤ c.1 ∧ 3 ≤ c.2 := by
  have hside := curSide_ge hs
  rw [mem_finderCentres] at hc
  rw [mem_finderCorners]
  omega

end

/-- Where the cells assigned before the walk lie, by their type codes (R193, R197 to R205). -/
theorem place_of_code {s : State} (hs : HasLayout s) {x y : Nat} {cell : Cell} (h : CellPlaced (curVersion s) x y cell) :
    (cell.code = 4 → (x = 8 ∧ y = curSide s - 8) ∧ cell.r1 = 1 ∧ cell.r2 = 0) ∧
    (cell.code = 0 → ∃ c ∈ finderCorners s, c.1 ≤ x ∧ x ≤ c.1 + 6 ∧ c.2 ≤ y ∧ y ≤ c.2 + 6) ∧
    (cell.code = 1 → ∃ c ∈ finderCorners s, c.1 ≤ x + 1 ∧ x ≤ c.1 + 7 ∧ c.2 ≤ y + 1 ∧ y ≤ c.2 + 7) ∧
    (cell.code = 2 → x = 6 ∨ y = 6) ∧ (cell.code = 3 → InAlignment s x y) ∧
    (cell.code = 5 → OnFormatLines (curSide s) x y) ∧
    (cell.code = 6 → 7 ≤ curVersion s ∧ InVersionBlock (curSide s) x y) := by
  cases cell with
  | finderPattern value =>
    obtain ⟨c, hc, hring⟩ := h
    obtain ⟨hcorner, hx3, hy3⟩ := corner_of_centre hs hc
    rw [ring_le_iff] at hring
    exact ⟨nofun, fun _ => ⟨_, hcorner, by dsimp only; omega⟩, nofun, nofun, nofun, nofun, nofun⟩
  | separator value =>
    obtain ⟨c, hc, hring⟩ := h
    obtain ⟨hcorner, hx3, hy3⟩ := corner_of_centre hs hc
    have hnear := ring_le_iff.mp hring.le
    exact ⟨nofun, nofun, fun _ => ⟨_, hcorner, by dsimp only; omega⟩, nofun, nofun, nofun, nofun⟩
  | timingPattern value => exact ⟨nofun, nofun, nofun, fun _ => h, nofun, nofun, nofun⟩
  | alignmentPattern value => exact ⟨nofun, nofun, nofun, nofun, fun _ => inAlignment_iff.mpr h, nofun, nofun⟩
  | otherFixed value =>
    obtain ⟨rfl, hplace⟩ := h
    exact ⟨fun _ => ⟨hplace, rfl, rfl⟩, nofun, nofun, nofun, nofun, nofun, nofun⟩
  | formatInfo bit copy => exact ⟨nofun, nofun, nofun, nofun, nofun, fun _ => h, nofun⟩
  | versionInfo bit copy => exact ⟨nofun, nofun, nofun, nofun, nofun, nofun, fun _ => h⟩
  | data | ecc | padding | unassigned => exact h.elim

/-- Settles O31: the cells assigned before the walk lie where their step puts them, and the walk assigns the others. -/
theorem cellClassifiesEveryModule : Obligations.CellClassifiesEveryModule := by
  unfold Obligations.CellClassifiesEveryModule
  intro s x y hs hx hy
  have ⟨_, h1, h40⟩ := hs
  have hdark : x = 8 ∧ y = curSide s - 8 → functionCell (curVersion s) x y = some (.otherFixed true) := by
    rintro ⟨rfl, rfl⟩
    exact functionCell_dark h1 h40
  obtain ⟨cell, hcell, -⟩ | ⟨n, hn, hlayout⟩ := layoutCell_cases hx hy
  · have hplaced := cellPlaced_functionCell h1 hcell
    obtain ⟨hfixed, hplaces⟩ := place_of_code hs hplaced
    refine ⟨_, _, _, exec_cell_of_functionCell hs hx hy hcell, (code_le_of_cellPlaced hplaced).trans (by decide),
      ⟨fun hcode => (hfixed hcode).1, fun hplace => ?_⟩, fun hcode => (hfixed hcode).2, hplaces⟩
    rw [Option.some.inj (hcell.symm.trans (hdark hplace))]
    rfl
  · obtain ⟨-, -, hnone⟩ := mem_walk.mp (List.mem_of_getElem? hn)
    have hcode : 7 ≤ (curCell s x y).code ∧ (curCell s x y).code ≤ 9 := by
      have hcases := walkedCell_code (cwStream (curRow s)) n
      rw [curCell, hlayout, ← curRow.eq_def]
      omega
    have hother : ∀ {m : Nat} {p : Prop}, m ≤ 6 → (curCell s x y).code = m → p := fun hm heq => by omega
    refine ⟨_, _, _, exec_cell_curCell hs hx hy, hcode.2, ⟨hother (by decide), fun hplace => ?_⟩, hother (by decide),
      hother (by decide), hother (by decide), hother (by decide), hother (by decide), hother (by decide), hother (by decide)⟩
    exact absurd (hnone.symm.trans (hdark hplace)) nofun

/-- Settles O37: the mask array is the predicate at the cells a mask flips. -/
theorem maskbitFollowsThePredicates : Obligations.MaskbitFollowsThePredicates := by
  unfold Obligations.MaskbitFollowsThePredicates
  intro s l x y hs hmask hx hy
  have ⟨hlay, h1, _⟩ := hs
  refine ⟨_, _, _, (maskArr (curVersion s) s.cfg.ecl (curMask s) x y).toNat, exec_cell_curCell hs hx hy,
    exec_maskbit_of_lt hlay hmask hx hy, layoutCell_code_le h1 hx hy _, Bool.toNat_le _, ?_, ?_⟩
  · rw [← maskable_iff, ← maskPred_iff, Bool.toNat_eq_one, maskArr, Bool.and_eq_true]
    rfl
  · rw [maskArr_level hx hy s.cfg.ecl l]
    exact exec_maskbit_of_lt (t := { s with cfg := { s.cfg with ecl := l } }) hlay hmask hx hy

end Sys2Proof.Proofs
end

section
/-! The codeword stream against the walk (R195, R206 to R208, R255): the stream as R195 writes it, the number of cells the walk
finds, and the one cell of every codeword bit. -/

namespace Sys2Proof.Proofs

open Sys2Proof Sys2Proof.Machine Sys2Proof.Claims

/-! The stream (R192, R195). -/

theorem blockLengths_eq (r : BlockRow) : blockLengths r = (List.range (nblocks r)).map (dataLen r) := by
  refine List.ext_getElem (by simp [blockLengths, nblocks]) fun k hk hk' => ?_
  simp [blockLengths, List.getElem_append, dataLen]

theorem blockLengths_zipIdx (r : BlockRow) :
    (blockLengths r).zipIdx = (List.range (nblocks r)).map fun k => (dataLen r k, k) := by
  rw [blockLengths_eq]
  exact List.ext_getElem (by simp) fun k hk hk' => by simp

/-- The entries of the statement are those of the model's stream, each with the type code of its kind. -/
theorem codewordEntries_eq (r : BlockRow) :
    codewordEntries r = (cwStream r).map fun e => (kindCode e.kind, e.block, e.index) := by
  simp only [codewordEntries, cwStream, blockLengths_zipIdx, List.map_append, List.map_flatMap, List.map_map, List.filter_map]
  rfl

/-- Column i of the data codewords, every block longer than i. -/
theorem dataColumn_length (r : BlockRow) {i : Nat} (hi : i ≤ r.len1) :
    ((List.range (nblocks r)).filter fun k => i < dataLen r k).length = if i < r.len1 then nblocks r else r.blocks2 := by
  split_ifs with hlt
  · rw [List.filter_eq_self.mpr, List.length_range]
    intro k _
    rw [decide_eq_true_eq, dataLen]
    split_ifs <;> omega
  · obtain rfl : i = r.len1 := by omega
    have hshort : (List.range r.blocks1).filter (fun k => decide (r.len1 < dataLen r k)) = [] :=
      List.filter_eq_nil_iff.mpr fun k hk => by simp [dataLen, List.mem_range.mp hk]
    have hlong : ((List.range r.blocks2).map (r.blocks1 + ·)).filter (fun k => decide (r.len1 < dataLen r k)) =
        (List.range r.blocks2).map (r.blocks1 + ·) :=
      List.filter_eq_self.mpr fun k hk => by
        obtain ⟨j, -, rfl⟩ := List.mem_map.mp hk
        simp [dataLen]
    rw [nblocks, List.range_add, List.filter_append, hshort, hlong]
    simp

/-- The stream has as many entries as the symbol has codewords. -/
theorem cwStream_length (r : BlockRow) : (cwStream r).length = totalCodewords r := by
  have hdata : ((List.range (r.len1 + 1)).flatMap fun i =>
      ((List.range (nblocks r)).filter fun k => i < dataLen r k).map fun k => CwEntry.mk .data k i).length = dataTotal r := by
    have hcolumns : (List.range r.len1).map (fun i => ((List.range (nblocks r)).filter fun k => i < dataLen r k).length) =
        (List.range r.len1).map fun _ => nblocks r :=
      List.map_congr_left fun i hi => by
        have hi := List.mem_range.mp hi
        rw [dataColumn_length r hi.le, if_pos hi]
    simp only [List.length_flatMap, List.length_map]
    rw [List.range_succ, List.map_append, List.sum_append, hcolumns, List.map_singleton, dataColumn_length r le_rfl,
      if_neg (lt_irrefl _)]
    simp only [List.map_const', List.length_range, List.sum_replicate, List.sum_singleton, smul_eq_mul, nblocks, dataTotal]
    ring
  rw [cwStream, List.length_append, hdata, totalCodewords, eccTotal]
  simp [List.length_flatMap, Nat.mul_comm]

/-! The cells assigned before the walk, counted (R196, R207). -/

/-- The cells of a square block. -/
def blockCells (n : Nat) (corner : Nat × Nat) : List (Nat × Nat) :=
  (List.range n).flatMap fun dx => (List.range n).map fun dy => (corner.1 + dx, corner.2 + dy)

theorem mem_blockCells {n : Nat} {corner c : Nat × Nat} :
    c ∈ blockCells n corner ↔ (corner.1 ≤ c.1 ∧ c.1 < corner.1 + n) ∧ corner.2 ≤ c.2 ∧ c.2 < corner.2 + n := by
  simp only [blockCells, List.mem_flatMap, List.mem_map, List.mem_range, Prod.ext_iff]
  constructor
  · rintro ⟨dx, hdx, dy, hdy, hx, hy⟩
    omega
  · rintro ⟨hx, hy⟩
    exact ⟨c.1 - corner.1, by omega, c.2 - corner.2, by omega, by omega, by omega⟩

@[simp] theorem blockCells_length (n : Nat) (corner : Nat × Nat) : (blockCells n corner).length = n * n := by
  simp [blockCells, List.length_flatMap]

/-- The places of a line 6 between the corners that no alignment pattern covers (R199, R200). -/
def timingPlaces (v : Nat) : List Nat :=
  (List.range' 8 (side v - 16)).filter fun i =>
    (alignCoords v).all fun c => i + 2 < c || c + 2 < i || c == 6 || c + 7 == side v

/-- The cells the steps before the walk can assign. -/
def functionCells (v : Nat) : List (Nat × Nat) :=
  [(0, 0), (side v - 8, 0), (0, side v - 8)].flatMap (blockCells 8)
    ++ (alignCentres v).flatMap (fun c => blockCells 5 (c.1 - 2, c.2 - 2))
    ++ (timingPlaces v).map (fun i => (i, 6)) ++ (timingPlaces v).map (fun i => (6, i)) ++ [(8, side v - 8)]
    ++ (List.range 15).map fmtPos0 ++ (List.range 15).map (fmtPos1 (side v))
    ++ if v < 7 then [] else (List.range 18).map (verPos0 (side v)) ++ (List.range 18).map (verPos1 (side v))

theorem functionCells_length (v : Nat) : (functionCells v).length =
    223 + 25 * (alignCentres v).length + 2 * (timingPlaces v).length + if v < 7 then 0 else 36 := by
  simp only [functionCells, List.length_append, List.length_flatMap, List.length_map, blockCells_length]
  split_ifs <;> simp <;> omega

theorem apart_self (a : Nat) : apart a a = 0 := by
  rw [apart, max_self, min_self, Nat.sub_self]

/-- A place of a line 6 outside the corners is counted or lies in an alignment pattern on the line. -/
theorem mem_timingPlaces {v i : Nat} (h40 : v ≤ 40) (h8 : 8 ≤ i) (h9 : i + 9 ≤ side v)
    (hclear : ∀ c ∈ alignCoords v, (c, 6) ∈ alignCentres v → (6, c) ∈ alignCentres v → 2 < apart i c) :
    i ∈ timingPlaces v := by
  have h6 : ∀ v ∈ List.range 41, alignCoords v = [] ∨ 6 ∈ alignCoords v := by decide +kernel
  refine List.mem_filter.mpr ⟨List.mem_range'_1.mpr (by omega), List.all_eq_true.mpr fun c hc => ?_⟩
  have hc6 := (h6 v (List.mem_range.mpr (by omega))).resolve_left (List.ne_nil_of_mem hc)
  simp only [Bool.or_eq_true, decide_eq_true_eq, beq_iff_eq]
  by_cases hend : c = 6 ∨ c + 7 = side v
  · tauto
  · have hfar := hclear c hc
      (mem_alignCentres.mpr ⟨hc, hc6, by simp only [ne_eq, Prod.mk.injEq]; omega⟩)
      (mem_alignCentres.mpr ⟨hc6, hc, by simp only [ne_eq, Prod.mk.injEq]; omega⟩)
    rw [apart] at hfar
    omega

theorem mem_corners_of_inCorner {sd x y : Nat} (hx : x < sd) (hy : y < sd) (h : InCorner sd x y) :
    (x, y) ∈ [(0, 0), (sd - 8, 0), (0, sd - 8)].flatMap (blockCells 8) := by
  simp only [List.mem_flatMap, List.mem_cons, List.not_mem_nil, or_false, exists_eq_or_imp, exists_eq_left, mem_blockCells]
  rw [InCorner] at h
  omega

/-- The list leaves out no cell that a step before the walk assigns. -/
theorem functionCell_eq_none {v x y : Nat} (h40 : v ≤ 40) (hx : x < side v) (hy : y < side v)
    (h : (x, y) ∉ functionCells v) : functionCell v x y = none := by
  simp only [functionCells, List.mem_append, not_or] at h
  obtain ⟨⟨⟨⟨⟨⟨⟨hcorners, haligns⟩, hrow⟩, hcolumn⟩, hdark⟩, hformat0⟩, hformat1⟩, hversion⟩ := h
  have hcorner : ¬ InCorner (side v) x y := fun hin => hcorners (mem_corners_of_inCorner hx hy hin)
  have hfar : ∀ c ∈ alignCentres v, 2 < ring c.1 c.2 x y := fun c hc => not_le.mp fun hring => by
    refine haligns (List.mem_flatMap.mpr ⟨c, hc, mem_blockCells.mpr ?_⟩)
    rw [ring_le_iff] at hring
    dsimp only
    omega
  have hrow6 : y ≠ 6 := by
    rintro rfl
    rw [InCorner] at hcorner
    refine hrow (List.mem_map_of_mem (mem_timingPlaces h40 (by omega) (by omega) fun c _ hc _ => ?_))
    have hring := hfar _ hc
    rwa [ring_eq, apart_self, Nat.max_zero] at hring
  have hcolumn6 : x ≠ 6 := by
    rintro rfl
    rw [InCorner] at hcorner
    refine hcolumn (List.mem_map_of_mem (mem_timingPlaces h40 (by omega) (by omega) fun c _ _ hc => ?_))
    have hring := hfar _ hc
    rwa [ring_eq, apart_self, Nat.zero_max] at hring
  have hdarkCell : darkCell (side v) x y = none :=
    if_neg fun hplace => hdark (List.mem_singleton.mpr (Prod.ext hplace.1 hplace.2))
  have hformatCell : formatCell (side v) x y = none := by
    refine Option.eq_none_iff_forall_not_mem.mpr fun cell hcell => ?_
    obtain ⟨i, -, -, hi, hpos | hpos⟩ := formatCell_place hcell
    · exact hformat0 (List.mem_map.mpr ⟨i, List.mem_range.mpr hi, hpos⟩)
    · exact hformat1 (List.mem_map.mpr ⟨i, List.mem_range.mpr hi, hpos⟩)
  have hversionCell : versionCell v x y = none := by
    refine Option.eq_none_iff_forall_not_mem.mpr fun cell hcell => ?_
    obtain ⟨hv, i, -, -, hi, hpos⟩ := versionCell_place hcell
    rw [if_neg (by omega), List.mem_append, not_or] at hversion
    obtain ⟨hversion0, hversion1⟩ := hversion
    obtain hpos | hpos := hpos
    · exact hversion0 (List.mem_map.mpr ⟨i, List.mem_range.mpr hi, hpos⟩)
    · exact hversion1 (List.mem_map.mpr ⟨i, List.mem_range.mpr hi, hpos⟩)
  rw [functionCell_of_not_inCorner hcorner, alignmentCell_eq_none hfar, timingCell_eq_none hcolumn6 hrow6, hdarkCell,
    hformatCell, hversionCell]
  rfl

/-! The walk is long enough (R207, R255). -/

theorem mem_gridCells {sd : Nat} {c : Nat × Nat} : c ∈ gridCells sd ↔ c.1 < sd ∧ c.2 < sd := by
  simp only [gridCells, List.mem_flatMap, List.mem_map, List.mem_range, Prod.ext_iff]
  constructor
  · rintro ⟨y, hy, x, hx, hx', hy'⟩
    omega
  · rintro ⟨hx, hy⟩
    exact ⟨c.2, hy, c.1, hx, rfl, rfl⟩

theorem gridCells_nodup (sd : Nat) : (gridCells sd).Nodup := by
  refine List.nodup_flatMap.mpr ⟨fun y _ => List.nodup_range.map fun x x' h => congrArg Prod.fst h,
    List.nodup_range.imp fun hne c hc hc' => hne ?_⟩
  obtain ⟨x, -, rfl⟩ := List.mem_map.mp hc
  obtain ⟨x', -, h⟩ := List.mem_map.mp hc'
  exact (congrArg Prod.snd h).symm

/-- Every cell of the grid is walked or assigned before the walk. -/
theorem gridCells_length_le {v : Nat} (h40 : v ≤ 40) : side v * side v ≤ (walk v).length + (functionCells v).length := by
  have hcover : gridCells (side v) ⊆ walk v ++ functionCells v := fun c hc => by
    obtain ⟨hx, hy⟩ := mem_gridCells.mp hc
    by_cases hmem : c ∈ functionCells v
    · exact List.mem_append_right _ hmem
    · exact List.mem_append_left _ (mem_walk.mpr ⟨hx, hy, functionCell_eq_none h40 hx hy hmem⟩)
  have hlength := ((gridCells_nodup (side v)).subperm hcover).length_le
  simpa [gridCells, List.length_flatMap] using hlength

/-- The walk has a cell for every codeword bit. -/
theorem walk_holds {v : Nat} (h1 : 1 ≤ v) (h40 : v ≤ 40) (l : Level) :
    8 * totalCodewords (blockRow v l) ≤ (walk v).length := by
  have hroom : ∀ v ∈ List.range 41, 1 ≤ v → (223 + 25 * (alignCentres v).length + 2 * (timingPlaces v).length +
      if v < 7 then 0 else 36) + 8 * (versionRow v).total ≤ side v * side v := by decide +kernel
  have hroom := hroom v (List.mem_range.mpr (by omega)) h1
  obtain ⟨-, -, -, -, -, htotal⟩ := blockRow_bounds_of_le v h40 l (by cases l <;> simp)
  have hgrid := gridCells_length_le h40
  rw [functionCells_length] at hgrid
  omega

/-! The one cell of every codeword bit (R194, R206, R208). -/

section
variable {v : Nat} {l : Level}

/-- What CELL answers for the n-th cell of the walk when it carries a bit of an entry of the stream. -/
theorem layoutCell_of_entry {n x y : Nat} {e : CwEntry} (hn : (walk v)[n]? = some (x, y))
    (he : (cwStream (blockRow v l))[n / 8]? = some e) :
    (layoutCell v l x y).code = kindCode e.kind ∧ (layoutCell v l x y).r1 = n / 8 ∧
    (layoutCell v l x y).r2 = (7 - n % 8) ||| e.block <<< 8 ||| e.index <<< 16 := by
  rw [layoutCell_of_walk hn]
  exact walkedCell_of_some he

theorem carries_iff (c : Cell) : c.carries = true ↔ c.code = 7 ∨ c.code = 8 := by
  cases c <;> simp [Cell.carries, Cell.code]

/-- A cell carries a codeword bit when its place in the walk is before the end of the stream. -/
theorem code_eq_data_or_ecc_iff (h1 : 1 ≤ v) {x y : Nat} (hx : x < side v) (hy : y < side v) :
    ((layoutCell v l x y).code = 7 ∨ (layoutCell v l x y).code = 8) ↔
      ∃ n e, (walk v)[n]? = some (x, y) ∧ (cwStream (blockRow v l))[n / 8]? = some e := by
  constructor
  · intro hcode
    obtain ⟨cell, hcell, hlayout⟩ | ⟨n, hn, hlayout⟩ := layoutCell_cases hx hy
    · have hle := code_le_of_cellPlaced (cellPlaced_functionCell h1 hcell)
      rw [hlayout] at hcode
      omega
    · refine ⟨n, ?_⟩
      cases hentry : (cwStream (blockRow v l))[n / 8]? with
      | some e => exact ⟨e, hn, rfl⟩
      | none =>
        rw [hlayout, walkedCell_of_none hentry] at hcode
        exact absurd hcode (by decide)
  · rintro ⟨n, e, hn, he⟩
    obtain ⟨hcode, -, -⟩ := layoutCell_of_entry hn he
    rw [hcode]
    cases e.kind <;> simp [kindCode]

/-- As many cells carry a codeword bit as there are codeword bits: they are the first of the walk (R208). -/
theorem carrying_length (h1 : 1 ≤ v) (h40 : v ≤ 40) :
    ((gridCells (side v)).filter fun c => (layoutCell v l c.1 c.2).carries).length = 8 * totalCodewords (blockRow v l) := by
  have hperm : ((gridCells (side v)).filter fun c => (layoutCell v l c.1 c.2).carries).Perm
      ((walk v).take (8 * totalCodewords (blockRow v l))) := by
    refine (List.perm_ext_iff_of_nodup ((gridCells_nodup _).filter _) ((walk_nodup v).sublist (List.take_sublist _ _))).mpr
      fun c => ?_
    rw [List.mem_filter, mem_gridCells, carries_iff]
    constructor
    · rintro ⟨⟨hx, hy⟩, hcode⟩
      obtain ⟨n, e, hn, he⟩ := (code_eq_data_or_ecc_iff h1 hx hy).mp hcode
      obtain ⟨hlt, -⟩ := List.getElem?_eq_some_iff.mp he
      rw [cwStream_length] at hlt
      obtain ⟨hlen, hget⟩ := List.getElem?_eq_some_iff.mp hn
      exact List.mem_take_iff_getElem.mpr ⟨n, by omega, hget⟩
    · intro hmem
      obtain ⟨n, hn, hget⟩ := List.mem_take_iff_getElem.mp hmem
      obtain ⟨hx, hy, -⟩ := mem_walk.mp (List.mem_of_mem_take hmem)
      have hlt : n / 8 < (cwStream (blockRow v l)).length := by
        rw [cwStream_length]
        omega
      exact ⟨⟨hx, hy⟩, (code_eq_data_or_ecc_iff h1 hx hy).mpr
        ⟨n, _, List.getElem?_eq_some_iff.mpr ⟨by omega, hget⟩, List.getElem?_eq_getElem hlt⟩⟩
  rw [hperm.length_eq, List.length_take, Nat.min_eq_left (walk_holds h1 h40 l)]

end

theorem blocks1_pos {v : Nat} (h1 : 1 ≤ v) (h40 : v ≤ 40) (l : Level) : 1 ≤ (blockRow v l).blocks1 := by
  have h : ∀ v ∈ List.range 41, ∀ l ∈ [Level.L, .M, .Q, .H], 1 ≤ v → 1 ≤ (blockRow v l).blocks1 := by decide +kernel
  exact h v (List.mem_range.mpr (by omega)) l (by cases l <;> simp) h1

/-- The printed tables meet R255, whatever RS_MAXLEN: R163 bounds that from below by the blocks of the table. -/
theorem printedTables_consistent (chosen : Nat → Nat) : printedTables.Consistent chosen where
  rows v l h1 h40 := by
    obtain ⟨hecc, hlen⟩ := blockRow_nonempty h1 h40 l
    obtain ⟨hdata, hredundancy, -, hmax, -⟩ := blockRow_bounds v l
    have hpaired := blockLenPaired_le_leastMaxLen printedTables l h1 h40 (blockRow v l).eccLen
    rw [blockLenPaired, if_pos rfl] at hpaired
    exact { ecc_len := ⟨hecc, hmax⟩, blocks := ⟨blocks1_pos h1 h40 l, hlen⟩, supported := hpaired.trans (le_max_left _ _),
            walk_holds := walk_holds h1 h40 l, data_fits := hdata.trans (by decide), ecc_fits := hredundancy.trans (by decide) }
  assigned v l x y h1 _ hx hy := layoutCell_ne_unassigned h1 hx hy l
  counted v l h1 h40 := carrying_length h1 h40

/-! The cells as CELL names them. -/

theorem ofNat32_inj {m n : Nat} (hm : m < 2 ^ 32) (hn : n < 2 ^ 32) (h : BitVec.ofNat 32 m = BitVec.ofNat 32 n) : m = n := by
  rw [← toNat_ofNat_of_lt hm, h, toNat_ofNat_of_lt hn]

/-- What CELL leaves for a cell that carries a bit of an entry of the stream, at place n of the walk (R222). -/
def namedResult (n : Nat) (e : CwEntry) (s : State) : State :=
  cellResult (kindCode e.kind) (n / 8) ((7 - n % 8) ||| e.block <<< 8 ||| e.index <<< 16) s

/-- The registers hold the numbers and the fields whole. -/
theorem namedResult_fields {s : State} {n : Nat} {e : CwEntry} (he : (cwStream (curRow s))[n / 8]? = some e) :
    (namedResult n e s).r0.toNat = kindCode e.kind ∧ (namedResult n e s).r1.toNat = n / 8 ∧
    ((namedResult n e s).r2.extractLsb' 0 8).toNat = 7 - n % 8 ∧
    ((namedResult n e s).r2.extractLsb' 8 8).toNat = e.block ∧
    ((namedResult n e s).r2.extractLsb' 16 16).toNat = e.index := by
  obtain ⟨hdata, hredundancy, hblocks, hecc, hlen⟩ := blockRow_bounds (curVersion s) s.cfg.ecl
  obtain ⟨hplace, -⟩ := List.getElem?_eq_some_iff.mp he
  obtain ⟨hblock, hdataIndex, heccIndex⟩ := mem_cwStream (List.mem_of_getElem? he)
  have hlast := dataLen_le (curRow s) e.block
  rw [cwStream_length, totalCodewords] at hplace
  simp only [← curRow.eq_def] at hdata hredundancy hblocks hecc hlen
  have hkind : kindCode e.kind < 2 ^ 32 := by cases e.kind <;> decide
  have hindex : e.index < 65536 := by
    cases hk : e.kind with
    | data => exact (hdataIndex hk).trans_le (by omega)
    | ecc => exact (heccIndex hk).trans_le (by omega)
  exact ⟨toNat_ofNat_of_lt hkind, toNat_ofNat_of_lt (by omega), codewordAddress_fields (by omega) (by omega) hindex⟩

section
variable {s : State} (hs : HasLayout s)
include hs

theorem exec_cell_of_entry {n x y : Nat} {e : CwEntry} (hn : (walk (curVersion s))[n]? = some (x, y))
    (he : (cwStream (curRow s))[n / 8]? = some e) : exec (.cell x y) s = .next (namedResult n e s) := by
  obtain ⟨hx, hy, -⟩ := mem_walk.mp (List.mem_of_getElem? hn)
  obtain ⟨hcode, hr1, hr2⟩ := layoutCell_of_entry hn he
  rw [exec_cell_curCell hs hx hy, curCell, hcode, hr1, hr2, namedResult]

/-- A cell that CELL names Data or Ecc has a place in the walk, and CELL answers the entry of the stream there. -/
theorem entry_of_named {x y : Nat} {t : State} (hx : x < curSide s) (hy : y < curSide s)
    (ht : exec (.cell x y) s = .next t) (hnamed : t.r0 = 7 ∨ t.r0 = 8) :
    ∃ n e, (walk (curVersion s))[n]? = some (x, y) ∧ (cwStream (curRow s))[n / 8]? = some e ∧ t = namedResult n e s := by
  have ⟨_, h1, _⟩ := hs
  have hle := layoutCell_code_le h1 hx hy s.cfg.ecl
  obtain rfl := Host.Outcome.next.inj ((exec_cell_curCell hs hx hy).symm.trans ht)
  have hcode : (curCell s x y).code = 7 ∨ (curCell s x y).code = 8 :=
    hnamed.imp (ofNat32_inj (hle.trans_lt (by decide)) (by decide)) (ofNat32_inj (hle.trans_lt (by decide)) (by decide))
  obtain ⟨n, e, hn, he⟩ := (code_eq_data_or_ecc_iff h1 hx hy).mp hcode
  exact ⟨n, e, hn, he, Host.Outcome.next.inj ((exec_cell_curCell hs hx hy).symm.trans (exec_cell_of_entry hs hn he))⟩

/-- CELL names Data, Ecc or Padding what no step before the walk assigns. -/
theorem isWalked_iff {x y : Nat} (hx : x < curSide s) (hy : y < curSide s) :
    isWalked s (x, y) = true ↔ functionCell (curVersion s) x y = none := by
  have ⟨_, h1, _⟩ := hs
  have hwalked : isWalked s (x, y) = true ↔
      BitVec.ofNat 32 (curCell s x y).code = 7 ∨ BitVec.ofNat 32 (curCell s x y).code = 8 ∨
        BitVec.ofNat 32 (curCell s x y).code = 9 := by
    rw [isWalked, exec_cell_curCell hs hx hy]
    exact decide_eq_true_iff
  rw [hwalked, curCell]
  obtain ⟨cell, hcell, hlayout⟩ | ⟨n, hn, hlayout⟩ := layoutCell_cases hx hy
  · have hle := code_le_of_cellPlaced (cellPlaced_functionCell h1 hcell)
    rw [hcell, hlayout]
    have hne : ∀ m, 6 < m → m < 2 ^ 32 → BitVec.ofNat 32 cell.code ≠ BitVec.ofNat 32 m := fun m h6 hm heq => by
      have hcode := ofNat32_inj (by omega) hm heq
      omega
    simp [hne 7 (by decide) (by decide), hne 8 (by decide) (by decide), hne 9 (by decide) (by decide)]
  · obtain ⟨-, -, hnone⟩ := mem_walk.mp (List.mem_of_getElem? hn)
    refine iff_of_true ?_ hnone
    rw [hlayout]
    obtain h | h | h := walkedCell_code (cwStream (blockRow (curVersion s) s.cfg.ecl)) n <;> simp [h]

/-- The walk of the statement is the model's. -/
theorem walkedCells_eq : walkedCells s = walk (curVersion s) := by
  rw [walkedCells, walk_eq, curSide]
  refine List.filter_congr fun c hc => ?_
  obtain ⟨hx, hy, -⟩ := mem_zigzag.mp hc
  rw [Bool.eq_iff_iff, isWalked_iff hs hx hy, Option.isNone_iff_eq_none]

end

/-- Settles O36: a cell of the walk and a codeword bit have the same place, one in the walk, the other in the stream. -/
theorem codewordBitsHaveOneCell : Obligations.CodewordBitsHaveOneCell := by
  unfold Obligations.CodewordBitsHaveOneCell
  refine ⟨printedTables_consistent, fun s x y x' y' t t' hs hx hy hx' hy' ht ht' hnamed hsame => ⟨fun hr1 hr2 => ?_, ?_⟩,
    fun s n bit hs hn hbit => ?_, fun s x y hs hx hy hwalked => ?_, fun s n c hs hc => ⟨fun code k i hentry => ?_, fun hnone => ?_⟩⟩
  · obtain ⟨n, e, hn, he, rfl⟩ := entry_of_named hs hx hy ht hnamed
    obtain ⟨n', e', hn', he', rfl⟩ := entry_of_named hs hx' hy' ht' (by rwa [hsame])
    obtain ⟨-, hcw, hbit, -⟩ := namedResult_fields he
    obtain ⟨-, hcw', hbit', -⟩ := namedResult_fields he'
    rw [hr1] at hcw
    rw [hr2] at hbit
    have hplace : n = n' := by omega
    rw [hplace, hn'] at hn
    simpa [eq_comm] using hn
  · obtain ⟨n, e, -, he, rfl⟩ := entry_of_named hs hx hy ht hnamed
    obtain ⟨hkind, hcw, -, hblock, hindex⟩ := namedResult_fields he
    rw [hkind, hcw, hblock, hindex, codewordEntries_eq, List.getElem?_map, he]
    rfl
  · have ⟨_, h1, h40⟩ := hs
    have hlong := walk_holds h1 h40 s.cfg.ecl
    rw [← curRow.eq_def] at hlong
    have hplace : (8 * n + (7 - bit)) / 8 = n := by omega
    obtain ⟨⟨x, y⟩, hc⟩ : ∃ c, (walk (curVersion s))[8 * n + (7 - bit)]? = some c :=
      ⟨_, List.getElem?_eq_getElem (by omega)⟩
    obtain ⟨e, he⟩ : ∃ e, (cwStream (curRow s))[(8 * n + (7 - bit)) / 8]? = some e :=
      ⟨_, List.getElem?_eq_getElem (by rw [cwStream_length]; omega)⟩
    obtain ⟨hx, hy, -⟩ := mem_walk.mp (List.mem_of_getElem? hc)
    obtain ⟨hkind, hcw, hbit', -⟩ := namedResult_fields he
    refine ⟨x, y, _, hx, hy, exec_cell_of_entry hs hc he, ?_, hcw.trans hplace, hbit'.trans (by omega)⟩
    rw [namedResult, cellResult]
    cases e.kind <;> simp [kindCode]
  · rw [walkedCells_eq hs]
    exact mem_walk.mpr ⟨hx, hy, (isWalked_iff hs hx hy).mp hwalked⟩
  · rw [walkedCells_eq hs] at hc
    rw [codewordEntries_eq, List.getElem?_map] at hentry
    obtain ⟨e, he, heq⟩ := Option.map_eq_some_iff.mp hentry
    obtain ⟨rfl, rfl, rfl⟩ : kindCode e.kind = code ∧ e.block = k ∧ e.index = i := by simpa using heq
    exact exec_cell_of_entry hs hc he
  · rw [walkedCells_eq hs] at hc
    rw [codewordEntries_eq, List.getElem?_map, Option.map_eq_none_iff] at hnone
    obtain ⟨hx, hy, -⟩ := mem_walk.mp (List.mem_of_getElem? hc)
    rw [exec_cell_curCell hs hx hy, curCell, layoutCell_of_walk hc, ← curRow.eq_def, walkedCell_of_none hnone]
    rfl

end Sys2Proof.Proofs
end

section
/-! What the segmentation of mode Auto costs at most, and that none of its segments is empty (R281): R279's trees span by
span, the list of spans taken from its end. -/

namespace Sys2Proof.Proofs

open Sys2Proof Sys2Proof.Machine Sys2Proof.Claims

/-! The spans (R273). -/

/-- Neighbouring spans are of different classes: the runs are maximal. -/
theorem spans_isChain (bytes : List Byte) : (spans bytes).IsChain fun a b => a.1 ≠ b.1 := by
  induction bytes with
  | nil => exact .nil
  | cons b bytes ih =>
    rw [spans]
    split
    next => exact .singleton _
    next c n rest h =>
      rw [h] at ih
      split_ifs with hc
      · rw [List.isChain_cons] at ih ⊢
        exact ih
      · exact .cons_cons (Ne.symm hc) ih

/-- No span is empty. -/
theorem span_pos {bytes : List Byte} {sp : CharClass × Nat} (h : sp ∈ spans bytes) : 1 ≤ sp.2 := by
  induction bytes generalizing sp with
  | nil => cases h
  | cons b bytes ih =>
    rw [spans] at h
    split at h
    next => simp_all
    next c n rest hrest =>
      rw [hrest] at ih
      split_ifs at h
      · obtain rfl | h := List.mem_cons.mp h
        · exact Nat.le_add_left 1 n
        · exact ih (List.mem_cons_of_mem _ h)
      · obtain rfl | h := List.mem_cons.mp h
        · exact le_rfl
        · exact ih h

/-! One choice of R279. -/

/-- The least of some trees costs at most each of them. -/
theorem exists_leastTree_le {ps : List Tree} {p : Tree} (hp : p ∈ ps) : ∃ q, leastTree ps = some q ∧ q.total ≤ p.total := by
  induction ps with
  | nil => cases hp
  | cons r ps ih =>
    rw [leastTree]
    obtain rfl | hp := List.mem_cons.mp hp
    · cases leastTree ps with
      | none => exact ⟨p, rfl, le_rfl⟩
      | some q =>
        dsimp only
        split_ifs with h
        · exact ⟨p, rfl, le_rfl⟩
        · exact ⟨q, rfl, (Nat.lt_of_not_le h).le⟩
    · obtain ⟨q, hq, hle⟩ := ih hp
      rw [hq]
      dsimp only
      split_ifs with h
      · exact ⟨r, rfl, h.trans hle⟩
      · exact ⟨q, rfl, hle⟩

/-- The next tree of an allowed type costs at most its extended and its branched one. -/
theorem exists_nextTree_le {best : Best} {t n : Nat} {c ty : CharClass} {p : Tree} (ha : allowed c ty = true)
    (hp : extendTree best ty n = some p ∨ branchTree best ty n t = some p) :
    ∃ q, nextTree best t c n ty = some q ∧ q.total ≤ p.total := by
  rw [nextTree, if_pos ha]
  obtain hp | hp := hp <;> rw [hp]
  · cases branchTree best ty n t with
    | none => exact ⟨p, rfl, le_rfl⟩
    | some b =>
      dsimp only
      split_ifs with h
      · exact ⟨p, rfl, le_rfl⟩
      · exact ⟨b, rfl, (Nat.lt_of_not_le h).le⟩
  · cases extendTree best ty n with
    | none => exact ⟨p, rfl, le_rfl⟩
    | some e =>
      dsimp only
      split_ifs with h
      · exact ⟨e, rfl, h⟩
      · exact ⟨p, rfl, le_rfl⟩

/-- A new segment costs its own bits after any tree of another type. -/
theorem exists_branchTree_le {best : Best} {u ty : CharClass} {p : Tree} (hu : u ≠ ty) (hp : best.of u = some p) (n t : Nat) :
    ∃ q, branchTree best ty n t = some q ∧ q.total ≤ p.total + hdr ty t + segbits ty n := by
  obtain ⟨r, hr, hle⟩ := exists_leastTree_le (mem_otherTrees.mpr ⟨u, hu, hp⟩)
  exact ⟨_, by rw [branchTree, hr], by dsimp only; omega⟩

/-! The trees after a list of spans. -/

/-- R279's state after a list of spans. -/
def treesAfter (t : Nat) (sps : List (CharClass × Nat)) : Best := sps.foldl (nextBest t) ⟨none, none, none⟩

theorem bestTrees_eq (bytes : List Byte) (t : Nat) : bestTrees bytes t = treesAfter t (spans bytes) := rfl

theorem treesAfter_concat_of (t : Nat) (sps : List (CharClass × Nat)) (sp : CharClass × Nat) (ty : CharClass) :
    (treesAfter t (sps ++ [sp])).of ty = nextTree (treesAfter t sps) t sp.1 sp.2 ty := by
  rw [treesAfter, List.foldl_concat, nextBest_of]
  rfl

theorem treesAfter_fit (t : Nat) (sps : List (CharClass × Nat)) : BestFits t (spanClasses sps) (treesAfter t sps) := by
  have hnone : BestFits t [] ⟨none, none, none⟩ :=
    { fits := fun ty p h => by cases ty <;> cases h
      octets := fun _ => rfl }
  exact hnone.afterSpans sps

/-- The first span begins a tree of every type that allows it. -/
theorem exists_first_le {c ty : CharClass} (ha : allowed c ty = true) (n t : Nat) :
    ∃ p, (treesAfter t [(c, n)]).of ty = some p ∧ p.total ≤ hdr ty t + segbits ty n := by
  rw [← List.nil_append [(c, n)], treesAfter_concat_of]
  refine exists_nextTree_le (p := ⟨hdr ty t + segbits ty n, ty, n, []⟩) ha (.inr ?_)
  cases ty <;> rfl

/-- The tree of type B costs at most the single Byte segment: its tail can always be made longer. -/
theorem exists_octets_le (t : Nat) {sps : List (CharClass × Nat)} (h : sps ≠ []) :
    ∃ p, (treesAfter t sps).of .B = some p ∧ p.total ≤ hdr .B t + 8 * (spanClasses sps).length := by
  have ha : ∀ c, allowed c .B = true := fun c => by cases c <;> rfl
  induction sps using List.reverseRecOn with
  | nil => exact absurd rfl h
  | append_singleton sps sp ih =>
    obtain rfl | hsps := eq_or_ne sps []
    · simpa [spanClasses, segbits] using exists_first_le (ha sp.1) sp.2 t
    · obtain ⟨p, hp, hle⟩ := ih hsps
      obtain ⟨htail, htotal, -⟩ := (treesAfter_fit t sps).fits .B p hp
      have htailLen : 8 * p.tailLen ≤ p.total := by
        rw [htotal, Tree.segments, segmentsCost_cons, htail]
        exact (Nat.le_add_left _ _).trans (Nat.le_add_right _ _)
      obtain ⟨q, hq, hqle⟩ := exists_nextTree_le (t := t) (n := sp.2) (ha sp.1) (.inl (by rw [extendTree, hp]; rfl))
      refine ⟨q, by rw [treesAfter_concat_of, hq], hqle.trans ?_⟩
      simp only [segbits, spanClasses, List.flatMap_append, List.flatMap_singleton, List.length_append,
        List.length_replicate] at hle ⊢
      omega

/-- The tree of the last span's class costs at most a segment for every span: the branch from the span before it, which is
of another class, is always a candidate. -/
theorem exists_spans_le (t : Nat) {sps : List (CharClass × Nat)} (hchain : sps.IsChain fun a b => a.1 ≠ b.1)
    {sp : CharClass × Nat} (hlast : sp ∈ sps.getLast?) :
    ∃ p, (treesAfter t sps).of sp.1 = some p ∧ p.total ≤ cost t sps := by
  induction sps using List.reverseRecOn generalizing sp with
  | nil => cases hlast
  | append_singleton sps last ih =>
    obtain rfl : last = sp := by simpa using hlast
    have ha : allowed last.1 last.1 = true := by cases last.1 <;> rfl
    cases hprev : sps.getLast? with
    | none =>
      obtain rfl := List.getLast?_eq_none_iff.mp hprev
      simpa [cost] using exists_first_le ha last.2 t
    | some prev =>
      obtain ⟨hchain, -, hne⟩ := List.isChain_append.mp hchain
      obtain ⟨p, hp, hle⟩ := ih hchain hprev
      obtain ⟨b, hb, hble⟩ := exists_branchTree_le (hne prev hprev last rfl) hp last.2 t
      obtain ⟨q, hq, hqle⟩ := exists_nextTree_le ha (.inr hb)
      refine ⟨q, by rw [treesAfter_concat_of, hq], ?_⟩
      simp only [cost, List.map_append, List.map_singleton, List.sum_append, List.sum_singleton] at hle ⊢
      omega

/-! No segment is empty. -/

/-- The segments of a branched tree: one for the span, and those of a tree present before it. -/
theorem branchTree_segments {best : Best} {ty : CharClass} {n t : Nat} {p : Tree} (h : branchTree best ty n t = some p) :
    p.segments = [⟨ty, n⟩] ∨ ∃ u q, best.of u = some q ∧ p.segments = ⟨ty, n⟩ :: q.segments := by
  rw [branchTree] at h
  obtain ⟨-, hleast⟩ | ⟨q, hq, hleast⟩ := leastTree_cases (otherTrees best ty) <;> rw [hleast] at h
  · obtain ⟨-, hp⟩ := Option.ite_none_right_eq_some.mp h
    obtain rfl := Option.some.inj hp
    exact .inl rfl
  · obtain ⟨u, -, hu⟩ := mem_otherTrees.mp hq
    obtain rfl := Option.some.inj h
    exact .inr ⟨u, q, hu, rfl⟩

/-- After spans that are not empty no segment of a present tree is. -/
theorem treesAfter_segment_pos {t : Nat} {sps : List (CharClass × Nat)} (hpos : ∀ sp ∈ sps, 1 ≤ sp.2) {ty : CharClass}
    {p : Tree} (hp : (treesAfter t sps).of ty = some p) : ∀ g ∈ p.segments, 1 ≤ g.len := by
  induction sps using List.reverseRecOn generalizing ty p with
  | nil => cases ty <;> cases hp
  | append_singleton sps sp ih =>
    rw [List.forall_mem_append] at hpos
    obtain ⟨hpos, hlast⟩ := hpos
    replace hlast : 1 ≤ sp.2 := hlast sp (by simp)
    rw [treesAfter_concat_of] at hp
    obtain ⟨-, hext | hbr⟩ := nextTree_cases hp
    · obtain ⟨q, hq, rfl⟩ := Option.map_eq_some_iff.mp hext
      obtain ⟨-, hearlier⟩ := List.forall_mem_cons.mp (ih hpos hq)
      exact List.forall_mem_cons.mpr ⟨hlast.trans (Nat.le_add_left _ _), hearlier⟩
    · obtain hsegs | ⟨u, q, hq, hsegs⟩ := branchTree_segments hbr <;> rw [hsegs]
      · simpa using hlast
      · exact List.forall_mem_cons.mpr ⟨hlast, ih hpos hq⟩

/-! The tree selected (R280, R281). -/

/-- The segmentation is that of a present tree, or there is no tree. -/
theorem autoSegments_cases (bytes : List Byte) (t : Nat) : autoSegments bytes t = (0, []) ∨
    ∃ ty p, (treesAfter t (spans bytes)).of ty = some p ∧ autoSegments bytes t = (p.total, p.segments.reverse) := by
  rw [autoSegments, bestTrees_eq]
  obtain ⟨-, hleast⟩ | ⟨p, hp, hleast⟩ :=
    leastTree_cases ([CharClass.N, .A, .B].filterMap (treesAfter t (spans bytes)).of) <;> rw [hleast]
  · exact .inl rfl
  · obtain ⟨ty, -, hty⟩ := List.mem_filterMap.mp hp
    exact .inr ⟨ty, p, hty, rfl⟩

/-- The total is at most that of every present tree. -/
theorem autoSegments_le {bytes : List Byte} {t : Nat} {ty : CharClass} {p : Tree}
    (hp : (treesAfter t (spans bytes)).of ty = some p) : (autoSegments bytes t).1 ≤ p.total := by
  have hmem : p ∈ [CharClass.N, .A, .B].filterMap (treesAfter t (spans bytes)).of :=
    List.mem_filterMap.mpr ⟨ty, by cases ty <;> simp, hp⟩
  obtain ⟨q, hq, hle⟩ := exists_leastTree_le hmem
  rwa [autoSegments, bestTrees_eq, hq]

theorem spans_length (bytes : List Byte) : (spanClasses (spans bytes)).length = bytes.length := by
  rw [spanClasses_spans, List.length_map]

theorem spans_ne_nil {bytes : List Byte} (h : bytes ≠ []) : spans bytes ≠ [] := by
  refine fun hnil => h (List.eq_nil_of_length_eq_zero ?_)
  rw [← spans_length, hnil]
  rfl

theorem autoSegments_le_octets {bytes : List Byte} (h : bytes ≠ []) (t : Nat) :
    (autoSegments bytes t).1 ≤ hdr .B t + 8 * bytes.length := by
  obtain ⟨p, hp, hle⟩ := exists_octets_le t (spans_ne_nil h)
  rw [spans_length] at hle
  exact (autoSegments_le hp).trans hle

theorem autoSegments_le_spans (bytes : List Byte) (t : Nat) : (autoSegments bytes t).1 ≤ cost t (spans bytes) := by
  obtain rfl | h := eq_or_ne bytes []
  · exact Nat.zero_le _
  · obtain ⟨p, hp, hle⟩ := exists_spans_le t (spans_isChain bytes) (List.getLast?_eq_some_getLast (spans_ne_nil h))
    exact (autoSegments_le hp).trans hle

theorem autoSegments_pos (bytes : List Byte) (t : Nat) : ∀ g ∈ (autoSegments bytes t).2, 1 ≤ g.len := by
  obtain hnone | ⟨ty, p, hp, hseg⟩ := autoSegments_cases bytes t
  · simp [hnone]
  · rw [hseg]
    exact fun g hg => treesAfter_segment_pos (fun _ => span_pos) hp g (List.mem_reverse.mp hg)

/-- Settles O45: the selected tree costs at most the tree of type B and that of the last span's class. -/
theorem segmentationIsValidAndBounded : Obligations.SegmentationIsValidAndBounded := by
  unfold Obligations.SegmentationIsValidAndBounded
  intro bytes t
  obtain ⟨hcov, htotal⟩ := autoSegments_fit bytes t
  exact ⟨hcov, autoSegments_pos bytes t, htotal, fun h => autoSegments_le_octets h t, autoSegments_le_spans bytes t,
    fun h => by subst h; rfl⟩

end Sys2Proof.Proofs
end

section
/-! ENC and ENCV (R286, R290, R291): what a mode carries, the version selected as the first of the forty that fits, and the
commands by their guards in order. -/

namespace Sys2Proof.Proofs

open Sys2Proof Sys2Proof.Machine Sys2Proof.Claims

/-! What a mode carries (R272, R283, R290). -/

theorem modeOf?_of_gt {e : Nat} (h : 3 < e) : modeOf? e = none :=
  match e, h with
  | _ + 4, _ => rfl

theorem exists_modeOf? {e : Nat} (h : e ≤ 3) : ∃ m, modeOf? e = some m :=
  match e, h with
  | 0, _ => ⟨.auto, rfl⟩
  | 1, _ => ⟨.fixed .N, rfl⟩
  | 2, _ => ⟨.fixed .A, rfl⟩
  | 3, _ => ⟨.fixed .B, rfl⟩

/-- The bytes Alphanumeric carries are those of the alphabet. -/
theorem allowed_alnum {b : Byte} : allowed (classOf b) .A = true ↔ b.toNat ∈ alphabet := by
  have hcodes : (alnum? b).isSome = true ↔ b.toNat ∈ alphabet := by simp [alnum?, alphabet_eq_alnumCodes]
  refine ⟨fun h => hcodes.mp (alnum?_isSome h), fun h => ?_⟩
  unfold classOf
  split_ifs with hd ha
  · rfl
  · rfl
  · exact absurd (hcodes.mpr h) ha

theorem allowed_octet (c : CharClass) : allowed c .B = true := by cases c <;> rfl

/-- The first byte a mode cannot carry is looked for by the rule of the statements. -/
theorem firstUnfit_eq {mode : Nat} {m : Mode} (hm : modeOf? mode = some m) (bytes : List Byte) :
    ∃ p : Byte → Bool, firstUnfit m bytes = bytes.findIdx? p ∧ ∀ b, p b = true ↔ ¬ modeCarries mode b :=
  match mode, hm with
  | 0, rfl => ⟨fun _ => false, (List.findIdx?_eq_none_iff.mpr fun _ _ => rfl).symm, by simp [modeCarries]⟩
  | 1, rfl => ⟨_, rfl, by simp [modeCarries, ← allowed_numeric]⟩
  | 2, rfl => ⟨_, rfl, by simp [modeCarries, ← allowed_alnum]⟩
  | 3, rfl => ⟨_, rfl, by simp [modeCarries, allowed_octet]⟩

theorem firstUnfit_eq_none {mode : Nat} {m : Mode} (hm : modeOf? mode = some m) {bytes : List Byte}
    (h : ∀ b ∈ bytes, modeCarries mode b) : firstUnfit m bytes = none := by
  obtain ⟨p, hp, hcarries⟩ := firstUnfit_eq hm bytes
  rw [hp, List.findIdx?_eq_none_iff]
  exact fun b hb => by simpa [h b hb] using hcarries b

/-- R283's index, of a payload given byte by byte. -/
theorem firstUnfit_payload {mode : Nat} {m : Mode} (hm : modeOf? mode = some m) {s : State} {i : Nat} (hi : i < s.len0.toNat)
    (hbad : ¬ modeCarries mode (readByte s i)) (hgood : ∀ j, j < i → modeCarries mode (readByte s j)) :
    firstUnfit m (payload s) = some i := by
  obtain ⟨p, hp, hcarries⟩ := firstUnfit_eq hm (payload s)
  have hbyte : ∀ j (hj : j < (payload s).length), (payload s)[j] = readByte s j := fun j hj => by simp [payload, bytesAt]
  rw [hp, List.findIdx?_eq_some_iff_getElem]
  refine ⟨by simpa [payload, bytesAt] using hi, by rw [hbyte, hcarries]; exact hbad, fun j hj => ?_⟩
  rw [hbyte, hcarries, not_not]
  exact hgood j hj

/-! The version selected (R286). -/

/-- The version's capacity holds the bits of the segmentation at its tier. -/
def holdsSegmentation (l : Level) (m : Mode) (bytes : List Byte) (v : Nat) : Bool :=
  (segmentation m bytes (tier v)).1 ≤ capBits v l

theorem not_holdsSegmentation {l : Level} {m : Mode} {bytes : List Byte} {v : Nat}
    (h : capBits v l < (segmentation m bytes (tier v)).1) : ¬ holdsSegmentation l m bytes v = true := by
  simpa [holdsSegmentation] using h

/-- One tier is tried under the segmentation of each of its versions. -/
theorem tryTier_eq (l : Level) (m : Mode) (bytes : List Byte) {first last : Nat}
    (htier : ∀ v, first ≤ v → v ≤ last → tier v = tier first) :
    tryTier l m bytes first last = ((List.range' first (last + 1 - first)).find? (holdsSegmentation l m bytes)).map
      fun v => (v, segmentation m bytes (tier v)) := by
  have hver : ∀ v ∈ List.range' first (last + 1 - first), tier v = tier first := fun v hv => by
    rw [List.mem_range'_1] at hv
    exact htier v hv.1 (by omega)
  rw [tryTier, ← List.range'_eq_map_range]
  have hfind : (List.range' first (last + 1 - first)).find? (holdsSegmentation l m bytes) =
      (List.range' first (last + 1 - first)).find? fun v => (segmentation m bytes (tier first)).1 ≤ capBits v l :=
    List.find?_congr fun v hv => by rw [holdsSegmentation, hver v hv]
  rw [hfind]
  refine Option.map_congr fun v hv => ?_
  rw [hver v (List.mem_of_find?_eq_some hv)]

/-- ENC selects the first of the forty versions that holds the segmentation at its own tier. -/
theorem selectVersion_eq (l : Level) (m : Mode) (bytes : List Byte) :
    selectVersion l m bytes = ((List.range' 1 40).find? (holdsSegmentation l m bytes)).map
      fun v => (v, segmentation m bytes (tier v)) := by
  have hversions : List.range' 1 40 = List.range' 1 9 ++ (List.range' 10 17 ++ List.range' 27 14) := rfl
  rw [selectVersion, tryTier_eq (first := 1) l m bytes fun v _ h => tier_eq_zero h,
    tryTier_eq (first := 10) l m bytes fun v h h' => tier_eq_one h h',
    tryTier_eq (first := 27) l m bytes fun v h _ => tier_eq_two h, hversions, List.find?_append, List.find?_append]
  simp [Option.map_or]

/-! The bound of one Byte segment (R276, R277, R281). -/

theorem countWidth_le_octets (ty : CharClass) (t : Nat) : countWidth ty t ≤ countWidth .B t + 2 :=
  match t with
  | 0 | 1 | _ + 2 => by cases ty <;> simp [countWidth]

/-- A fixed mode's one segment costs no more than in mode Byte: a digit takes at most 4 bits and a letter at most 6, which
makes up for the longer length field. -/
theorem segment_le_octets (ty : CharClass) (t : Nat) {n : Nat} (hn : 1 ≤ n) : hdr ty t + segbits ty n ≤ hdr .B t + 8 * n := by
  have hwidth := countWidth_le_octets ty t
  simp only [hdr]
  cases ty with
  | N =>
    have hbits : segbits .N n ≤ 4 * n := by
      simp only [segbits]
      split_ifs <;> omega
    omega
  | A =>
    have hbits : segbits .A n ≤ 6 * n := by
      simp only [segbits]
      omega
    omega
  | B => exact le_rfl

theorem segmentation_le_octets (m : Mode) (bytes : List Byte) (t : Nat) :
    (segmentation m bytes t).1 ≤ hdr .B t + 8 * bytes.length := by
  obtain rfl | h := eq_or_ne bytes []
  · cases m <;> exact Nat.zero_le _
  cases m with
  | auto => exact autoSegments_le_octets h t
  | fixed ty =>
    rw [segmentation, fixedSegments, if_neg h]
    exact segment_le_octets ty t (List.length_pos_iff.mpr h)

theorem hdr_octets (v : Nat) : hdr .B (tier v) = if v ≤ 9 then 12 else 20 := by
  unfold tier
  split_ifs <;> rfl

/-- A version the payload fits holds its segmentation. -/
theorem holdsSegmentation_of_fits {l : Level} {m : Mode} {v : Nat} {s : State} (h : Fits m v l s) :
    holdsSegmentation l m (payload s) v = true := by
  refine decide_eq_true ?_
  obtain h | h := h
  · exact h
  · have hle := segmentation_le_octets m (payload s) (tier v)
    rw [hdr_octets, payload, bytesAt, List.length_map, List.length_range] at hle
    exact hle.trans h

/-! The checks ENC and ENCV share, in their order (R290, R291). -/

/-- What the commands do with a level and a mode after their checks, each with the command's own opcode byte. -/
def afterChecks (op : Byte) (ecLevel mode : Nat) (s : State) (body : Level → Mode → Result) : Result :=
  match levelOf? ecLevel with
  | none => takeFault op .eclevel ecLevel s
  | some l =>
    match modeOf? mode with
    | none => takeFault op .mode mode s
    | some m =>
      if payloadTooLong s then takeFault op .range s.len0.toNat s
      else
        match firstUnfit m (payload s) with
        | some i => takeFault op .charset i s
        | none => body l m

/-- The operands and the payload pass the checks. -/
structure Passes (ecLevel mode : Nat) (s : State) (l : Level) (m : Mode) : Prop where
  level : levelOf? ecLevel = some l
  mode : modeOf? mode = some m
  length : s.len0.toNat ≤ 8192
  charset : firstUnfit m (payload s) = none

section
variable {op : Byte} {ecLevel mode : Nat} {s : State} {body : Level → Mode → Result} {l : Level}

theorem payloadTooLong_eq_false (h : s.len0.toNat ≤ 8192) : payloadTooLong s = false := decide_eq_false (Nat.not_lt.mpr h)

theorem Passes.afterChecks_eq {m : Mode} (h : Passes ecLevel mode s l m) : afterChecks op ecLevel mode s body = body l m := by
  simp [afterChecks, h.level, h.mode, payloadTooLong_eq_false h.length, h.charset]

theorem afterChecks_eclevel (h : 3 < ecLevel) : afterChecks op ecLevel mode s body = .next (faulted 0x03 op ecLevel s) := by
  rw [afterChecks, levelOf?_of_gt h]
  rfl

/-- The faults after the level's, E_MODE, E_RANGE and E_CHARSET. -/
theorem afterChecks_faults (hl : levelOf? ecLevel = some l) :
    (3 < mode → afterChecks op ecLevel mode s body = .next (faulted 0x05 op mode s)) ∧
    (mode ≤ 3 → 8192 < s.len0.toNat → afterChecks op ecLevel mode s body = .next (faulted 0x0B op s.len0.toNat s)) ∧
    (mode ≤ 3 → s.len0.toNat ≤ 8192 → ∀ i, i < s.len0.toNat → ¬ modeCarries mode (readByte s i) →
      (∀ j, j < i → modeCarries mode (readByte s j)) →
      afterChecks op ecLevel mode s body = .next (faulted 0x06 op i s)) := by
  simp only [afterChecks, hl]
  refine ⟨fun hmode => ?_, fun hmode hlen => ?_, fun hmode hlen i hi hbad hgood => ?_⟩
  · rw [modeOf?_of_gt hmode]
    rfl
  · obtain ⟨m, hm⟩ := exists_modeOf? hmode
    rw [hm]
    exact if_pos (decide_eq_true hlen)
  · obtain ⟨m, hm⟩ := exists_modeOf? hmode
    simp only [hm, payloadTooLong_eq_false hlen, firstUnfit_payload hm hi hbad hgood]
    rfl

end

/-! What the commands do after their checks (R286 to R291). -/

/-- What ENC and ENCV leave at a version. -/
def encoded (v : Nat) (l : Level) (m : Mode) (s : State) : State :=
  placeStream padFill v l (payload s) (segmentation m (payload s) (tier v)).1 (segmentation m (payload s) (tier v)).2 s

/-- ENC encodes at the first version that holds the segmentation, or raises E_CAPACITY. -/
def encodeAtFirst (s : State) (l : Level) (m : Mode) : Result :=
  ((List.range' 1 40).find? (holdsSegmentation l m (payload s))).elim (takeFault opEnc .capacity 0 s)
    fun v => .next (encoded v l m s)

/-- ENCV encodes at its version, or raises E_TOOBIG. -/
def encodeAt (version : Nat) (s : State) (l : Level) (m : Mode) : Result :=
  if holdsSegmentation l m (payload s) version then .next (encoded version l m s) else takeFault opEncv .toobig version s

theorem exec_enc (ecLevel mode : Nat) (s : State) :
    exec (.enc ecLevel mode) s = afterChecks opEnc ecLevel mode s (encodeAtFirst s) := by
  have hbody : encodeAtFirst s = fun l m => match selectVersion l m (payloadOf s) with
      | none => takeFault opEnc .capacity 0 s
      | some (v, total, segs) => .next (placeStream padFill v l (payloadOf s) total segs s) := by
    funext l m
    rw [encodeAtFirst, payloadOf_eq_payload, selectVersion_eq]
    cases (List.range' 1 40).find? (holdsSegmentation l m (payload s)) <;> rfl
  rw [hbody]
  rfl

theorem exec_encv_of_range {version : Nat} (h1 : 1 ≤ version) (h40 : version ≤ 40) (ecLevel mode : Nat) (s : State) :
    exec (.encv version ecLevel mode) s = afterChecks opEncv ecLevel mode s (encodeAt version s) := by
  have hrange : ¬ (version < 1 ∨ version > Config.maxVersion) := by simp only [Config.maxVersion]; omega
  have hbody : encodeAt version s = fun l m =>
      if (segmentation m (payloadOf s) (tier version)).1 > capBits version l then takeFault opEncv .toobig version s
      else .next (encoded version l m s) := by
    funext l m
    rw [payloadOf_eq_payload, encodeAt, ← ite_not]
    simp only [holdsSegmentation, decide_eq_true_eq, not_le]
  rw [hbody]
  exact if_neg hrange

/-- The registers a version that holds the segmentation leaves: each number fits its register. -/
theorem encoded_results {v : Nat} {l : Level} {m : Mode} {s : State} (h40 : v ≤ 40)
    (h : holdsSegmentation l m (payload s) v = true) :
    (encoded v l m s).status = s.status ∧ (encoded v l m s).r0.toNat = v ∧
      (encoded v l m s).blen.toNat = 8 * dataTotal (blockRow v l) ∧
      (encoded v l m s).r1.toNat = (segmentation m (payload s) (tier v)).1 ∧
      (encoded v l m s).r1.toNat ≤ (encoded v l m s).blen.toNat := by
  obtain ⟨hbound, -⟩ := blockRow_bounds v l
  have hle : (segmentation m (payload s) (tier v)).1 ≤ 8 * dataTotal (blockRow v l) := of_decide_eq_true h
  simp only [encoded, placeStream_status, placeStream_r0, placeStream_r1, placeStream_blen, capBits]
  rw [toNat_ofNat_of_lt (by omega), toNat_ofNat_of_lt (by omega), toNat_ofNat_of_lt (by omega)]
  exact ⟨trivial, rfl, rfl, rfl, hle⟩

/-! The obligations. -/

/-- Settles O42: the version holds the segmentation because the payload fits it. -/
theorem encvCompletes : Obligations.EncvCompletes := by
  unfold Obligations.EncvCompletes
  intro version ecLevel mode l m s h1 h40 hl hm hlen hcarries hfits
  have hholds := holdsSegmentation_of_fits hfits
  refine ⟨encoded version l m s, ?_, encoded_results h40 hholds⟩
  rw [exec_encv_of_range h1 h40, Passes.afterChecks_eq ⟨hl, hm, hlen, firstUnfit_eq_none hm hcarries⟩]
  exact if_pos hholds

/-- Settles O41: some version holds the segmentation, so the first that does is found. -/
theorem encCompletes : Obligations.EncCompletes := by
  unfold Obligations.EncCompletes
  intro ecLevel mode v l m s hl hm hlen hcarries h1 h40 hfits
  have hmem : v ∈ List.range' 1 40 := List.mem_range'_1.mpr ⟨h1, by omega⟩
  obtain ⟨w, hw⟩ := Option.isSome_iff_exists.mp (List.find?_isSome.mpr ⟨v, hmem, holdsSegmentation_of_fits hfits⟩)
  obtain ⟨hw1, hw40⟩ := List.mem_range'_1.mp (List.mem_of_find?_eq_some hw)
  obtain ⟨hstatus, hr0, hblen, hr1, hle⟩ := encoded_results (Nat.le_of_lt_succ hw40) (List.find?_some hw)
  refine ⟨encoded w l m s, ?_, hstatus, by omega, by omega, by rw [hr0, hblen], by rw [hr0, hr1], hle⟩
  rw [exec_enc, Passes.afterChecks_eq ⟨hl, hm, hlen, firstUnfit_eq_none hm hcarries⟩, encodeAtFirst, hw]
  rfl

/-- Settles O43: the first version that holds its segmentation is the one ENCV accepts and none before it is. -/
theorem encIsEncvAtTheLeastVersion : Obligations.EncIsEncvAtTheLeastVersion := by
  unfold Obligations.EncIsEncvAtTheLeastVersion
  intro ecLevel mode s t _ h ht
  obtain ⟨code, info, -, rfl⟩ | ⟨l, m, v, total, segs, hl, hm, hlen, hunfit, hselect, rfl⟩ := execEnc_next h
  · exact absurd ht (raise_status_ne _ _ _ _)
  have hpasses : Passes ecLevel mode s l m := ⟨hl, hm, hlen, hunfit⟩
  rw [payloadOf_eq_payload] at *
  obtain ⟨w, hw, heq⟩ := Option.map_eq_some_iff.mp ((selectVersion_eq l m (payload s)).symm.trans hselect)
  obtain ⟨rfl, hseg⟩ := Prod.mk.inj heq
  have ht : placeStream padFill w l (payload s) total segs s = encoded w l m s := by rw [encoded, hseg]
  obtain ⟨hholds, hmem, hleast⟩ := List.find?_range'_eq_some.mp hw
  obtain ⟨h1, h40⟩ := List.mem_range'_1.mp hmem
  obtain ⟨-, hr0, -⟩ := encoded_results (by omega) hholds
  rw [ht, hr0]
  refine ⟨h1, by omega, ?_, fun v hv1 hvw => ?_⟩
  · rw [exec_encv_of_range h1 (by omega), hpasses.afterChecks_eq]
    exact if_pos hholds
  · rw [exec_encv_of_range hv1 (by omega), hpasses.afterChecks_eq]
    exact if_neg (by simpa using hleast v hv1 hvw)

/-- Settles O44: the version first, then the checks both commands share, then the capacity. -/
theorem encoderFaults : Obligations.EncoderFaults := by
  unfold Obligations.EncoderFaults
  intro version ecLevel mode s
  refine ⟨fun hv => if_pos hv, fun he => ?_, fun h1 h40 he => ?_, fun l hl => ?_⟩
  · rw [exec_enc, afterChecks_eclevel he]
    rfl
  · rw [exec_encv_of_range h1 h40, afterChecks_eclevel he]
    rfl
  obtain ⟨hmode, hrange, hcharset⟩ := afterChecks_faults (op := opEnc) (mode := mode) (s := s) (body := encodeAtFirst s) hl
  rw [exec_enc]
  refine ⟨hmode, hrange, hcharset, fun hlen m hm hcarries hcap => ?_, fun h1 h40 => ?_⟩
  · rw [Passes.afterChecks_eq ⟨hl, hm, hlen, firstUnfit_eq_none hm hcarries⟩, encodeAtFirst, List.find?_eq_none.mpr]
    · rfl
    · intro v hv
      obtain ⟨h1, h40⟩ := List.mem_range'_1.mp hv
      exact not_holdsSegmentation (hcap v h1 (Nat.le_of_lt_succ h40))
  obtain ⟨hmode, hrange, hcharset⟩ := afterChecks_faults (op := opEncv) (mode := mode) (s := s) (body := encodeAt version s) hl
  rw [exec_encv_of_range h1 h40]
  refine ⟨hmode, hrange, hcharset, fun hlen m hm hcarries hcap => ?_⟩
  rw [Passes.afterChecks_eq ⟨hl, hm, hlen, firstUnfit_eq_none hm hcarries⟩]
  exact if_neg (not_holdsSegmentation hcap)

end Sys2Proof.Proofs
end

section
/-! The LinearSystem over GF(2): spans of vectors, the reduction of R327 and R328, and an accepted insert (R325 to R328). -/

namespace Sys2Proof.Proofs

open Sys2Proof Sys2Proof.Machine Sys2Proof.Claims

/-! The xor of the vectors of a list, and the span of a list. -/

section
variable {α β : Type} {f : α → SolverVec} {g : β → SolverVec}

/-- The xor of the vectors of the members of a list; `xorOf` is the case of identifiers. -/
def xorBy (f : α → SolverVec) (l : List α) : SolverVec := l.foldr (fun a acc => f a ^^^ acc) 0

@[simp] theorem xorBy_nil : xorBy f [] = 0 := rfl

@[simp] theorem xorBy_cons (a : α) (l : List α) : xorBy f (a :: l) = f a ^^^ xorBy f l := rfl

theorem xorOf_eq_xorBy (orig : Nat → SolverVec) (ids : List Nat) : xorOf orig ids = xorBy orig ids := rfl

@[simp] theorem xorBy_append (l l' : List α) : xorBy f (l ++ l') = xorBy f l ^^^ xorBy f l' := by
  induction l with
  | nil => simp
  | cons a l ih => simp [ih, BitVec.xor_assoc]

theorem xorBy_perm {l l' : List α} (h : l.Perm l') : xorBy f l = xorBy f l' :=
  h.foldr_eq' (fun a _ b _ acc => by ac_rfl) 0

/-- The vector is the xor of the vectors of some members of the list. -/
def InSpan (f : α → SolverVec) (l : List α) (v : SolverVec) : Prop := ∃ used : List α, used.Sublist l ∧ v = xorBy f used

theorem InSpan.zero {l : List α} : InSpan f l 0 := ⟨[], List.nil_sublist l, rfl⟩

/-- Adding the vector of a member adds it to the members used, or takes it away. -/
theorem InSpan.xor_mem {l : List α} {v : SolverVec} (h : InSpan f l v) {a : α} (ha : a ∈ l) : InSpan f l (f a ^^^ v) := by
  obtain ⟨used, hused, rfl⟩ := h
  induction hused with
  | slnil => exact absurd ha List.not_mem_nil
  | @cons used l b hused ih =>
    obtain rfl | ha := List.mem_cons.mp ha
    · exact ⟨a :: used, hused.cons_cons a, rfl⟩
    · obtain ⟨used', hused', heq⟩ := ih ha
      exact ⟨used', hused'.cons b, heq⟩
  | @cons_cons used l b hused ih =>
    obtain rfl | ha := List.mem_cons.mp ha
    · exact ⟨used, hused.cons a, (xor_cancel_left ..)⟩
    · obtain ⟨used', hused', heq⟩ := ih ha
      exact ⟨b :: used', hused'.cons_cons b, by
        rw [xorBy_cons, xorBy_cons, ← heq]
        ac_rfl⟩

theorem InSpan.of_mem {l : List α} {a : α} (ha : a ∈ l) : InSpan f l (f a) := by
  simpa using InSpan.zero.xor_mem ha

theorem InSpan.xor {l : List α} {v w : SolverVec} (hv : InSpan f l v) (hw : InSpan f l w) : InSpan f l (v ^^^ w) := by
  obtain ⟨used, hused, rfl⟩ := hv
  have hmem := hused.subset
  clear hused
  induction used with
  | nil => simpa using hw
  | cons a used ih =>
    obtain ⟨ha, hused⟩ := List.cons_subset.mp hmem
    simpa [BitVec.xor_assoc] using (ih hused).xor_mem ha

/-- A list whose vectors are in the span of another has its span in that one's. -/
theorem inSpan_xorBy {used : List α} {m : List β} (h : ∀ a ∈ used, InSpan g m (f a)) : InSpan g m (xorBy f used) := by
  induction used with
  | nil => exact InSpan.zero
  | cons a used ih =>
    obtain ⟨ha, hused⟩ := List.forall_mem_cons.mp h
    exact ha.xor (ih hused)

theorem InSpan.trans {l : List α} {m : List β} {v : SolverVec} (hv : InSpan f l v) (h : ∀ a ∈ l, InSpan g m (f a)) :
    InSpan g m v := by
  obtain ⟨used, hused, rfl⟩ := hv
  exact inSpan_xorBy fun a ha => h a (hused.subset ha)

/-- A bit that no vector of a list has is 0 in their xor. -/
theorem xorBy_getLsbD_eq_false {l : List α} {n : Nat} (h : ∀ a ∈ l, (f a).getLsbD n = false) :
    (xorBy f l).getLsbD n = false := by
  induction l with
  | nil => simp
  | cons a l ih =>
    obtain ⟨ha, hl⟩ := List.forall_mem_cons.mp h
    simp [ha, ih hl]

end

/-! The symmetric difference of two combinations (R327). -/

theorem mem_symdiff {a b : List Nat} {i : Nat} : i ∈ symdiff a b ↔ i ∈ a ∧ i ∉ b ∨ i ∈ b ∧ i ∉ a := by
  simp [symdiff]

theorem symdiff_nodup {a b : List Nat} (ha : a.Nodup) (hb : b.Nodup) : (symdiff a b).Nodup := by
  refine List.Nodup.append (ha.filter _) (hb.filter _) fun i hi hi' => ?_
  simp only [List.mem_filter, List.contains_iff_mem, Bool.not_eq_true', ← Bool.not_eq_true] at hi hi'
  exact hi.2 hi'.1

/-- The part of one set in another, with the rest of it, is that set. -/
theorem xorBy_filter_split {f : Nat → SolverVec} (p : Nat → Bool) (a : List Nat) :
    xorBy f (a.filter p) ^^^ xorBy f (a.filter fun i => !p i) = xorBy f a := by
  rw [← xorBy_append]
  exact xorBy_perm (List.filter_append_perm p a)

theorem xorOf_symdiff (orig : Nat → SolverVec) {a b : List Nat} (ha : a.Nodup) (hb : b.Nodup) :
    xorOf orig (symdiff a b) = xorOf orig a ^^^ xorOf orig b := by
  have hcommon : xorBy orig (a.filter b.contains) = xorBy orig (b.filter a.contains) :=
    xorBy_perm ((List.perm_ext_iff_of_nodup (ha.filter _) (hb.filter _)).mpr fun i => by simp [and_comm])
  simp only [xorOf_eq_xorBy, symdiff, xorBy_append]
  rw [← xorBy_filter_split b.contains a, ← xorBy_filter_split a.contains b, hcommon,
    BitVec.xor_comm (xorBy orig (b.filter a.contains)), BitVec.xor_assoc, xor_cancel_left]

/-! The reduction (R327, R328). -/

theorem reduceBy_cons (r : Row) (rows : List Row) (v : SolverVec) (c : List Nat) :
    reduceBy (r :: rows) v c =
      if v.getLsbD r.pivot then reduceBy rows (v ^^^ r.vec) (symdiff c r.comb) else reduceBy rows v c := by
  rw [reduceBy, List.foldl_cons]
  split_ifs <;> rfl

/-- The reduction xors rows into the vector. -/
theorem reduceBy_used (rows : List Row) (v : SolverVec) (c : List Nat) :
    ∃ used : List Row, used.Sublist rows ∧ v = xorBy Row.vec used ^^^ (reduceBy rows v c).1 := by
  induction rows generalizing v c with
  | nil => exact ⟨[], .slnil, (BitVec.zero_xor).symm⟩
  | cons r rows ih =>
    rw [reduceBy_cons]
    split_ifs with hbit
    · obtain ⟨used, hused, heq⟩ := ih (v ^^^ r.vec) (symdiff c r.comb)
      refine ⟨r :: used, hused.cons_cons r, ?_⟩
      rw [xorBy_cons, BitVec.xor_assoc, ← heq, BitVec.xor_comm v, xor_cancel_left]
    · obtain ⟨used, hused, heq⟩ := ih v c
      exact ⟨used, hused.cons r, heq⟩

theorem reduceBy_getLsbD {rows : List Row} {n : Nat} (h : ∀ r ∈ rows, r.vec.getLsbD n = false) (v : SolverVec) (c : List Nat) :
    (reduceBy rows v c).1.getLsbD n = v.getLsbD n := by
  obtain ⟨used, hused, heq⟩ := reduceBy_used rows v c
  have hclear := xorBy_getLsbD_eq_false fun r hr => h r (hused.subset hr)
  have hbit := congrArg (BitVec.getLsbD · n) heq
  simpa [hclear] using hbit.symm

/-- An identifier named after the reduction was named before it or in a row. -/
theorem mem_reduceBy {rows : List Row} {v : SolverVec} {c : List Nat} {i : Nat} (h : i ∈ (reduceBy rows v c).2) :
    i ∈ c ∨ ∃ r ∈ rows, i ∈ r.comb := by
  induction rows generalizing v c with
  | nil => exact .inl h
  | cons r rows ih =>
    rw [reduceBy_cons] at h
    split_ifs at h
    · obtain hc | ⟨r', hr', hi⟩ := ih h
      · obtain ⟨hc, -⟩ | ⟨hr, -⟩ := mem_symdiff.mp hc
        · exact .inl hc
        · exact .inr ⟨r, List.mem_cons_self, hr⟩
      · exact .inr ⟨r', List.mem_cons_of_mem r hr', hi⟩
    · obtain hc | ⟨r', hr', hi⟩ := ih h
      · exact .inl hc
      · exact .inr ⟨r', List.mem_cons_of_mem r hr', hi⟩

/-- A row's combination is a set whose vectors its vector is the xor of (R325). -/
def Recorded (orig : Nat → SolverVec) (r : Row) : Prop := r.comb.Nodup ∧ r.vec = xorOf orig r.comb

theorem Recorded.xor {orig : Nat → SolverVec} {r : Row} (hr : Recorded orig r) {c : List Nat} (hc : c.Nodup) :
    (symdiff c r.comb).Nodup ∧ xorOf orig (symdiff c r.comb) = xorOf orig c ^^^ r.vec := by
  obtain ⟨hset, hvec⟩ := hr
  exact ⟨symdiff_nodup hc hset, by rw [xorOf_symdiff orig hc hset, hvec]⟩

/-- The reduction keeps the names a set, and the vector with the vectors named the same in sum. -/
theorem reduceBy_recorded {orig : Nat → SolverVec} {rows : List Row} (h : ∀ r ∈ rows, Recorded orig r) (v : SolverVec)
    {c : List Nat} (hc : c.Nodup) : (reduceBy rows v c).2.Nodup ∧
      (reduceBy rows v c).1 ^^^ xorOf orig (reduceBy rows v c).2 = v ^^^ xorOf orig c := by
  induction rows generalizing v c with
  | nil => exact ⟨hc, rfl⟩
  | cons r rows ih =>
    obtain ⟨hr, hrows⟩ := List.forall_mem_cons.mp h
    rw [reduceBy_cons]
    split_ifs
    · obtain ⟨hset, hxor⟩ := hr.xor hc
      obtain ⟨hset', hxor'⟩ := ih hrows (v ^^^ r.vec) hset
      refine ⟨hset', hxor'.trans ?_⟩
      rw [hxor, BitVec.xor_comm (xorOf orig c), BitVec.xor_assoc, xor_cancel_left]
    · exact ih hrows v hc

/-! Reduced systems (R325). -/

section
variable {orig : Nat → SolverVec} {rows : List Row} (h : Reduced orig rows)
include h

theorem recorded_of_reduced : ∀ r ∈ rows, Recorded orig r := fun r hr => ⟨h.set r hr, h.recorded r hr⟩

theorem reduced_sublist {used : List Row} (hused : used.Sublist rows) : Reduced orig used where
  rising := h.rising.sublist hused
  first_bit r hr := h.first_bit r (hused.subset hr)
  cleared r hr r' hr' := h.cleared r (hused.subset hr) r' (hused.subset hr')
  set r hr := h.set r (hused.subset hr)
  recorded r hr := h.recorded r (hused.subset hr)

omit h in
/-- The first row's pivot is below the others'. -/
theorem head_pivot_lt {r : Row} (h : Reduced orig (r :: rows)) : ∀ r' ∈ rows, r.pivot < r'.pivot :=
  fun _ hr' => List.rel_of_pairwise_cons h.rising hr'

omit h in
theorem head_pivot_clear {r : Row} (h : Reduced orig (r :: rows)) : ∀ r' ∈ rows, r'.vec.getLsbD r.pivot = false :=
  fun r' hr' => h.cleared r' (List.mem_cons_of_mem r hr') r List.mem_cons_self (head_pivot_lt h r' hr').ne

/-- What the reduction leaves is 0 at every pivot: a row clears its own column, and the rows after it leave that alone. -/
theorem reduceBy_pivot (v : SolverVec) (c : List Nat) : ∀ r ∈ rows, (reduceBy rows v c).1.getLsbD r.pivot = false := by
  induction rows generalizing v c with
  | nil => exact fun _ hr => absurd hr List.not_mem_nil
  | cons r rows ih =>
    have htail := reduced_sublist h (List.sublist_cons_self r rows)
    have hclear := head_pivot_clear h
    obtain ⟨hpivot, -⟩ := h.first_bit r List.mem_cons_self
    rw [reduceBy_cons]
    refine List.forall_mem_cons.mpr ⟨?_, fun r' hr' => ?_⟩
    · split_ifs with hbit
      · rw [reduceBy_getLsbD hclear, BitVec.getLsbD_xor, hbit, hpivot]
        rfl
      · rw [reduceBy_getLsbD hclear]
        exact Bool.eq_false_iff.mpr hbit
    · split_ifs
      · exact ih htail _ _ r' hr'
      · exact ih htail _ _ r' hr'

/-- The first set bit of a vector of the span that is not 0 is a pivot: that of the first row used. -/
theorem first_bit_of_inSpan {v : SolverVec} (hv : InSpan Row.vec rows v) (hne : v ≠ 0) :
    ∃ r ∈ rows, v.getLsbD r.pivot = true ∧ ∀ t, t < r.pivot → v.getLsbD t = false := by
  obtain ⟨used, hused, rfl⟩ := hv
  cases used with
  | nil => exact absurd rfl hne
  | cons r used =>
    have hr := reduced_sublist h hused
    obtain ⟨hpivot, hbelow⟩ := hr.first_bit r List.mem_cons_self
    refine ⟨r, hused.subset List.mem_cons_self, ?_, fun t ht => xorBy_getLsbD_eq_false fun r' hr' => ?_⟩
    · rw [xorBy_cons, BitVec.getLsbD_xor, hpivot, xorBy_getLsbD_eq_false (head_pivot_clear hr)]
      rfl
    · obtain rfl | hr' := List.mem_cons.mp hr'
      · exact hbelow t ht
      · exact (hr.first_bit r' (List.mem_cons_of_mem r hr')).2 t (ht.trans (head_pivot_lt hr r' hr'))

/-- A vector of the span that is 0 at every pivot is 0. -/
theorem eq_zero_of_inSpan {v : SolverVec} (hv : InSpan Row.vec rows v)
    (hpivots : ∀ r ∈ rows, v.getLsbD r.pivot = false) : v = 0 := by
  by_contra hne
  obtain ⟨r, hr, hbit, -⟩ := first_bit_of_inSpan h hv hne
  exact absurd hbit (Bool.eq_false_iff.mp (hpivots r hr))

/-- A vector of the span is reduced to 0. -/
theorem reduceBy_of_inSpan {v : SolverVec} (hv : InSpan Row.vec rows v) (c : List Nat) : (reduceBy rows v c).1 = 0 := by
  obtain ⟨used, hused, heq⟩ := reduceBy_used rows v c
  refine eq_zero_of_inSpan h ?_ (reduceBy_pivot h v c)
  rw [← xor_cancel_left (xorBy Row.vec used) (reduceBy rows v c).1, ← heq]
  exact InSpan.xor ⟨used, hused, rfl⟩ hv

end

/-! An insert (R327). -/

/-- The first set bit of a vector, or none when it is 0 (R325). -/
theorem lowestBit_eq_some {v : SolverVec} {q : Nat} (h : lowestBit v = some q) :
    v.getLsbD q = true ∧ ∀ t, t < q → v.getLsbD t = false := by
  obtain ⟨hbit, hbelow⟩ := List.find?_range_eq_some.mp h
  exact ⟨hbit, fun t ht => by simpa using hbelow.2 t ht⟩

theorem lowestBit_eq_none {v : SolverVec} : lowestBit v = none ↔ v = 0 := by
  rw [lowestBit, List.find?_range_eq_none]
  refine ⟨fun h => BitVec.eq_of_getLsbD_eq fun t ht => by simpa using h t ht, ?_⟩
  rintro rfl t ht
  simp

theorem placeRow_perm (row : Row) (rows : List Row) : (placeRow row rows).Perm (row :: rows) := by
  induction rows with
  | nil => exact .refl _
  | cons r rows ih =>
    rw [placeRow]
    split_ifs
    · exact .refl _
    · exact (ih.cons r).trans (.swap ..)

/-- A row whose pivot is new is put where the pivots keep rising. -/
theorem placeRow_rising {row : Row} {rows : List Row} (h : rows.Pairwise fun r r' => r.pivot < r'.pivot)
    (hnew : ∀ r ∈ rows, r.pivot ≠ row.pivot) : (placeRow row rows).Pairwise fun r r' => r.pivot < r'.pivot := by
  induction rows with
  | nil => exact List.pairwise_singleton ..
  | cons r rows ih =>
    obtain ⟨hr, hrows⟩ := List.pairwise_cons.mp h
    obtain ⟨hne, hnew⟩ := List.forall_mem_cons.mp hnew
    rw [placeRow]
    split_ifs with hlt
    · exact List.pairwise_cons.mpr ⟨List.forall_mem_cons.mpr ⟨hlt, fun r' hr' => hlt.trans (hr r' hr')⟩, h⟩
    · refine List.pairwise_cons.mpr ⟨fun r' hr' => ?_, ih hrows hnew⟩
      obtain rfl | hr' := List.mem_cons.mp ((placeRow_perm row rows).mem_iff.mp hr')
      · omega
      · exact hr r' hr'

@[simp] theorem clearColumn_pivot (q : Nat) (w : SolverVec) (c : List Nat) (r : Row) :
    (clearColumn q w c r).pivot = r.pivot := by
  unfold clearColumn
  split_ifs <;> rfl

/-- Clearing a column xors the new row in or leaves the row as it is. -/
theorem clearColumn_cases (q : Nat) (w : SolverVec) (c : List Nat) (r : Row) :
    (r.vec.getLsbD q = true ∧ clearColumn q w c r = ⟨r.pivot, r.vec ^^^ w, symdiff r.comb c⟩) ∨
    (r.vec.getLsbD q = false ∧ clearColumn q w c r = r) := by
  unfold clearColumn
  split_ifs with hbit
  · exact .inl ⟨hbit, rfl⟩
  · exact .inr ⟨Bool.eq_false_iff.mpr hbit, rfl⟩

/-- What an accepted insert does, said once: the reduced vector is not 0, and it is placed as a row beside the old ones with
its first set bit's column cleared. -/
theorem insertVec_eq_some {id : Nat} {v : SolverVec} {rows rows' : List Row} (h : insertVec id v rows = some rows') :
    ∃ q w c, reduceBy rows v [id] = (w, c) ∧ w.getLsbD q = true ∧ (∀ t, t < q → w.getLsbD t = false) ∧
      rows' = placeRow ⟨q, w, c⟩ (rows.map (clearColumn q w c)) := by
  obtain ⟨q, hq, rfl⟩ := Option.map_eq_some_iff.mp h
  obtain ⟨hbit, hbelow⟩ := lowestBit_eq_some hq
  exact ⟨q, _, _, rfl, hbit, hbelow, rfl⟩

theorem insertVec_eq_none {id : Nat} {v : SolverVec} {rows : List Row} :
    insertVec id v rows = none ↔ (reduceBy rows v [id]).1 = 0 := by
  rw [insertVec, Option.map_eq_none_iff, lowestBit_eq_none]

/-- The rows of the system after an insert. -/
theorem mem_placeRow_map {row r' : Row} {rows : List Row} {f : Row → Row} :
    r' ∈ placeRow row (rows.map f) ↔ r' = row ∨ ∃ r ∈ rows, f r = r' := by
  rw [(placeRow_perm ..).mem_iff, List.mem_cons, List.mem_map]

section
variable {orig : Nat → SolverVec} {rows : List Row} (h : Reduced orig rows) {q : Nat} {w : SolverVec} {c : List Nat}
  (hq : w.getLsbD q = true) (hbelow : ∀ t, t < q → w.getLsbD t = false) (hclear : ∀ r ∈ rows, w.getLsbD r.pivot = false)
include h hq hbelow hclear

omit hq in
/-- A row keeps its first set bit when the new row is xored in, since that begins after it. -/
theorem clearColumn_first_bit {r : Row} (hr : r ∈ rows) : (clearColumn q w c r).vec.getLsbD r.pivot = true ∧
    ∀ t, t < r.pivot → (clearColumn q w c r).vec.getLsbD t = false := by
  obtain ⟨hpivot, hfirst⟩ := h.first_bit r hr
  obtain ⟨hcolumn, heq⟩ | ⟨-, heq⟩ := clearColumn_cases q w c r
  · have hle : r.pivot ≤ q := not_lt.mp fun hlt => absurd hcolumn (Bool.eq_false_iff.mp (hfirst q hlt))
    rw [heq]
    exact ⟨by simp [hpivot, hclear r hr], fun t ht => by simp [hfirst t ht, hbelow t (ht.trans_le hle)]⟩
  · rw [heq]
    exact ⟨hpivot, hfirst⟩

omit hbelow in
/-- The column of the new row and those of the other rows are 0 in a row after the new one's is cleared. -/
theorem clearColumn_cleared {r : Row} (hr : r ∈ rows) : (clearColumn q w c r).vec.getLsbD q = false ∧
    ∀ r' ∈ rows, r'.pivot ≠ r.pivot → (clearColumn q w c r).vec.getLsbD r'.pivot = false := by
  obtain ⟨hcolumn, heq⟩ | ⟨hcolumn, heq⟩ := clearColumn_cases q w c r
  · rw [heq]
    exact ⟨by simp [hcolumn, hq], fun r' hr' hne => by simp [h.cleared r hr r' hr' hne, hclear r' hr']⟩
  · rw [heq]
    exact ⟨hcolumn, h.cleared r hr⟩

omit hq hbelow hclear in
theorem clearColumn_recorded (hnew : Recorded orig ⟨q, w, c⟩) {r : Row} (hr : r ∈ rows) :
    Recorded orig (clearColumn q w c r) := by
  obtain ⟨-, heq⟩ | ⟨-, heq⟩ := clearColumn_cases q w c r
  · obtain ⟨hset, hxor⟩ := hnew.xor (h.set r hr)
    rw [heq]
    exact ⟨hset, by rw [hxor, h.recorded r hr]⟩
  · rw [heq]
    exact recorded_of_reduced h r hr

/-- A row that begins in a column of its own and is 0 at the pivots keeps the system reduced. -/
theorem reduced_placeRow (hnew : Recorded orig ⟨q, w, c⟩) :
    Reduced orig (placeRow ⟨q, w, c⟩ (rows.map (clearColumn q w c))) := by
  have hpivots : ∀ r ∈ rows, r.pivot ≠ q := fun r hr heq => absurd hq (Bool.eq_false_iff.mp (heq ▸ hclear r hr))
  have hrecorded : ∀ r ∈ placeRow ⟨q, w, c⟩ (rows.map (clearColumn q w c)), Recorded orig r := fun r' hr' => by
    obtain rfl | ⟨r, hr, rfl⟩ := mem_placeRow_map.mp hr'
    · exact hnew
    · exact clearColumn_recorded h hnew hr
  refine ⟨placeRow_rising (List.pairwise_map.mpr (by simpa using h.rising)) (by simpa using hpivots),
    fun r' hr' => ?_, fun r' hr' r'' hr'' hne => ?_, fun r hr => (hrecorded r hr).1, fun r hr => (hrecorded r hr).2⟩
  · obtain rfl | ⟨r, hr, rfl⟩ := mem_placeRow_map.mp hr'
    · exact ⟨hq, hbelow⟩
    · rw [clearColumn_pivot]
      exact clearColumn_first_bit h hbelow hclear hr
  · obtain rfl | ⟨r, hr, rfl⟩ := mem_placeRow_map.mp hr' <;> obtain rfl | ⟨s, hs, rfl⟩ := mem_placeRow_map.mp hr''
    · exact absurd rfl hne
    · rw [clearColumn_pivot]
      exact hclear s hs
    · exact (clearColumn_cleared h hq hclear hr).1
    · rw [clearColumn_pivot, clearColumn_pivot] at hne
      rw [clearColumn_pivot]
      exact (clearColumn_cleared h hq hclear hr).2 s hs hne

end

/-- The row an accepted insert makes of the offered vector records the vectors it is the xor of. -/
theorem recorded_of_insert {orig : Nat → SolverVec} {rows : List Row} (h : Reduced orig rows) {id q : Nat} {w : SolverVec}
    {c : List Nat} (hw : reduceBy rows (orig id) [id] = (w, c)) : Recorded orig ⟨q, w, c⟩ := by
  obtain ⟨hset, hxor⟩ := reduceBy_recorded (recorded_of_reduced h) (orig id) (List.nodup_singleton id)
  rw [hw] at hset hxor
  refine ⟨hset, BitVec.xor_eq_zero_iff.mp (hxor.trans ?_)⟩
  simp [xorOf]

theorem reduced_insert {orig : Nat → SolverVec} {rows rows' : List Row} (h : Reduced orig rows) {id : Nat}
    (hrows' : insertVec id (orig id) rows = some rows') : Reduced orig rows' := by
  obtain ⟨q, w, c, hw, hq, hbelow, rfl⟩ := insertVec_eq_some hrows'
  have hclear := reduceBy_pivot h (orig id) [id]
  rw [hw] at hclear
  exact reduced_placeRow h hq hbelow hclear (recorded_of_insert h hw)

theorem insertVec_length {id : Nat} {v : SolverVec} {rows rows' : List Row} (h : insertVec id v rows = some rows') :
    rows'.length = rows.length + 1 := by
  obtain ⟨q, w, c, -, -, -, rfl⟩ := insertVec_eq_some h
  simp [(placeRow_perm ..).length_eq]

/-- A rejected vector is in the span of the rows. -/
theorem inSpan_of_rejected {id : Nat} {v : SolverVec} {rows : List Row} (h : insertVec id v rows = none) :
    InSpan Row.vec rows v := by
  obtain ⟨used, hused, heq⟩ := reduceBy_used rows v [id]
  exact ⟨used, hused, by simpa [insertVec_eq_none.mp h] using heq⟩

/-- Settles O52: what the reduction leaves is 0 at the old pivots, so it makes a row with a pivot of its own, or is 0. -/
theorem insertKeepsTheSystemReduced : Obligations.InsertKeepsTheSystemReduced := by
  unfold Obligations.InsertKeepsTheSystemReduced
  intro orig rows id h
  refine ⟨fun rows' hrows' => ⟨reduced_insert h hrows', insertVec_length hrows', fun r hr => ?_⟩, inSpan_of_rejected⟩
  obtain ⟨q, w, c, -, -, -, rfl⟩ := insertVec_eq_some hrows'
  exact ⟨_, mem_placeRow_map.mpr (.inr ⟨r, hr, rfl⟩), clearColumn_pivot ..⟩

/-- Settles O53: the solve is the reduction from no names. -/
theorem solveLeavesNothingAtThePivots : Obligations.SolveLeavesNothingAtThePivots := by
  unfold Obligations.SolveLeavesNothingAtThePivots
  intro orig rows c h
  obtain ⟨hset, hxor⟩ := reduceBy_recorded (recorded_of_reduced h) c List.nodup_nil
  refine ⟨?_, hset, reduceBy_pivot h c []⟩
  rw [BitVec.xor_comm]
  exact (hxor.trans BitVec.xor_zero).symm

/-! The draw (R334). -/

theorem permute_perm (draw : Nat → Nat) (free : List Nat) : (permute draw free).Perm free := by
  induction free with
  | nil => exact .refl _
  | cons i is ih =>
    have hplace : draw is.length % (is.length + 1) ≤ (permute draw is).length := by
      rw [ih.length_eq]
      exact Nat.lt_succ_iff.mp (Nat.mod_lt _ is.length.succ_pos)
    exact (List.perm_insertIdx i _ hplace).trans (ih.cons i)

/-- A permutation of a list depends on the draw only below the list's length. -/
theorem permute_congr {draw draw' : Nat → Nat} {free : List Nat} (h : ∀ n, n < free.length → draw n = draw' n) :
    permute draw free = permute draw' free := by
  induction free with
  | nil => rfl
  | cons i is ih =>
    rw [permute, permute, h is.length (Nat.lt_succ_self _), ih fun n hn => h n (hn.trans (Nat.lt_succ_self _))]

theorem insertIdx_between {α : Type} (before after : List α) (a : α) :
    (before ++ after).insertIdx before.length a = before ++ a :: after := by
  induction before with
  | nil => rfl
  | cons b before ih => simp [ih]

/-- A draw names the place of the first element among the others, and a draw for them does the rest. -/
theorem exists_draw {free order : List Nat} (h : order.Perm free) : ∃ draw : Nat → Nat, permute draw free = order := by
  induction free generalizing order with
  | nil => exact ⟨fun _ => 0, h.eq_nil.symm⟩
  | cons i is ih =>
    obtain ⟨before, after, rfl⟩ := List.append_of_mem (h.mem_iff.mpr List.mem_cons_self)
    have hrest : (before ++ after).Perm is := (List.perm_middle.symm.trans h).cons_inv
    obtain ⟨draw, hdraw⟩ := ih hrest
    have hplace : before.length < is.length + 1 := by
      rw [← hrest.length_eq, List.length_append]
      omega
    refine ⟨Function.update draw is.length before.length, ?_⟩
    rw [permute, Function.update_self, Nat.mod_eq_of_lt hplace,
      permute_congr fun n hn => Function.update_of_ne (Nat.ne_of_lt hn) _ _, hdraw, insertIdx_between]

/-- Settles O51. -/
theorem everyPermutationIsADraw : Obligations.EveryPermutationIsADraw := by
  unfold Obligations.EveryPermutationIsADraw
  exact ⟨permute_perm, fun _ _ => exists_draw⟩

end Sys2Proof.Proofs
end

section
/-! The pass that offers the free bits in the order drawn: what holds of its rows and of the bits it accepts, and that their
number does not depend on the order (R334, R335, R467). -/

namespace Sys2Proof.Proofs

open Sys2Proof Sys2Proof.Machine Sys2Proof.Claims

/-! What an accepted insert does to the span and to the names of the rows (R327). -/

section
variable {id : Nat} {v : SolverVec} {rows rows' : List Row} (h : insertVec id v rows = some rows')
include h

/-- No row is lost from the span, since the new row takes back what it was xored into. -/
theorem inSpan_row_of_insert : ∀ r ∈ rows, InSpan Row.vec rows' r.vec := fun r hr => by
  obtain ⟨q, w, c, -, -, -, rfl⟩ := insertVec_eq_some h
  have hnew : InSpan Row.vec (placeRow ⟨q, w, c⟩ (rows.map (clearColumn q w c))) w :=
    InSpan.of_mem (f := Row.vec) (mem_placeRow_map.mpr (.inl rfl))
  have hold : InSpan Row.vec (placeRow ⟨q, w, c⟩ (rows.map (clearColumn q w c))) (clearColumn q w c r).vec :=
    InSpan.of_mem (f := Row.vec) (mem_placeRow_map.mpr (.inr ⟨r, hr, rfl⟩))
  obtain ⟨-, heq⟩ | ⟨-, heq⟩ := clearColumn_cases q w c r
  · rw [heq] at hold
    simpa [BitVec.xor_assoc] using hold.xor hnew
  · rwa [heq] at hold

theorem inSpan_vec_of_insert : InSpan Row.vec rows' v := by
  have hrows := inSpan_row_of_insert h
  obtain ⟨q, w, c, hw, -, -, rfl⟩ := insertVec_eq_some h
  obtain ⟨used, hused, heq⟩ := reduceBy_used rows v [id]
  rw [hw] at heq
  rw [heq]
  exact (inSpan_xorBy fun r hr => hrows r (hused.subset hr)).xor
    (InSpan.of_mem (f := Row.vec) (mem_placeRow_map (row := ⟨q, w, c⟩).mpr (.inl rfl)))

/-- The rows name the vector inserted and what was named before. -/
theorem named_of_insert {names : List Nat} (hid : id ∈ names) (hnamed : ∀ r ∈ rows, r.comb ⊆ names) :
    ∀ r ∈ rows', r.comb ⊆ names := by
  obtain ⟨q, w, c, hw, -, -, rfl⟩ := insertVec_eq_some h
  have hnew : c ⊆ names := fun i hi => by
    have hi : i ∈ (reduceBy rows v [id]).2 := by rwa [hw]
    obtain hi | ⟨r, hr, hi⟩ := mem_reduceBy hi
    · rwa [List.mem_singleton.mp hi]
    · exact hnamed r hr hi
  intro r' hr'
  obtain rfl | ⟨r, hr, rfl⟩ := mem_placeRow_map.mp hr'
  · exact hnew
  · obtain ⟨-, heq⟩ | ⟨-, heq⟩ := clearColumn_cases q w c r
    · rw [heq]
      intro i hi
      obtain ⟨hi, -⟩ | ⟨hi, -⟩ := mem_symdiff.mp hi
      · exact hnamed r hr hi
      · exact hnew hi
    · rw [heq]
      exact hnamed r hr

theorem not_inSpan_of_insert {orig : Nat → SolverVec} (hrows : Reduced orig rows) : ¬ InSpan Row.vec rows v := fun hv => by
  have hnone := insertVec_eq_none.mpr (reduceBy_of_inSpan hrows hv [id])
  rw [h] at hnone
  exact absurd hnone nofun

end

/-! Pivots (R325). -/

theorem pivots_nodup {orig : Nat → SolverVec} {rows : List Row} (h : Reduced orig rows) : (rows.map Row.pivot).Nodup :=
  List.pairwise_map.mpr (h.rising.imp Nat.ne_of_lt)

/-- The pivots are the first set bits of the span, so a system whose rows another one spans has no more of them. -/
theorem length_le_of_inSpan {orig orig' : Nat → SolverVec} {rows rows' : List Row} (h : Reduced orig rows)
    (h' : Reduced orig' rows') (hspan : ∀ r ∈ rows, InSpan Row.vec rows' r.vec) : rows.length ≤ rows'.length := by
  have hpivots : rows.map Row.pivot ⊆ rows'.map Row.pivot := fun q hq => by
    obtain ⟨r, hr, rfl⟩ := List.mem_map.mp hq
    obtain ⟨hbit, hbelow⟩ := h.first_bit r hr
    have hne : r.vec ≠ 0 := fun h0 => by simp [h0] at hbit
    obtain ⟨r', hr', hbit', hbelow'⟩ := first_bit_of_inSpan h' (hspan r hr) hne
    refine List.mem_map.mpr ⟨r', hr', ?_⟩
    obtain hlt | heq | hlt := Nat.lt_trichotomy r'.pivot r.pivot
    · exact absurd hbit' (Bool.eq_false_iff.mp (hbelow _ hlt))
    · exact heq
    · exact absurd hbit (Bool.eq_false_iff.mp (hbelow' _ hlt))
  simpa using ((pivots_nodup h).subperm hpivots).length_le

/-! The pass (R335). -/

/-- What holds of the pass when the bits of `seen` have been offered in their order: the system is reduced and has one row
for each accepted bit, names accepted bits only, spans every offered contribution, and those of the accepted bits are
independent. -/
structure PassKeeps (p : Template) (seen : List Nat) (st : Pass) : Prop where
  reduced : Reduced (contribution p) st.rows
  count : st.rows.length = st.solved.length
  accepted : st.solved.Sublist seen
  named : ∀ r ∈ st.rows, r.comb ⊆ st.solved
  offered : ∀ i ∈ seen, InSpan Row.vec st.rows (contribution p i)
  independent : ∀ used : List Nat, used.Sublist st.solved → xorBy (contribution p) used = 0 → used = []

theorem passKeeps_start (p : Template) : PassKeeps p [] ⟨[], []⟩ where
  reduced := ⟨.nil, nofun, nofun, nofun, nofun⟩
  count := rfl
  accepted := .slnil
  named := nofun
  offered := nofun
  independent _ h _ := List.sublist_nil.mp h

section
variable {p : Template} {seen : List Nat} {st : Pass} (h : PassKeeps p seen st)
include h

/-- The rows are in the span of the accepted contributions. -/
theorem PassKeeps.inSpan_solved : ∀ r ∈ st.rows, InSpan (contribution p) st.solved r.vec := fun r hr => by
  rw [h.reduced.recorded r hr]
  exact inSpan_xorBy fun i hi => InSpan.of_mem (h.named r hr hi)

/-- An accepted contribution is not a sum of those accepted before it. -/
theorem PassKeeps.independent_insert {i : Nat} {rows' : List Row} (hrows' : insertVec i (contribution p i) st.rows = some rows')
    {used : List Nat} (hused : used.Sublist (st.solved ++ [i])) (hxor : xorBy (contribution p) used = 0) : used = [] := by
  obtain ⟨before, last, rfl, hbefore, hlast⟩ := List.sublist_append_iff.mp hused
  obtain rfl | rfl := List.sublist_singleton.mp hlast
  · rw [List.append_nil] at hxor ⊢
    exact h.independent before hbefore hxor
  · rw [xorBy_append, xorBy_cons, xorBy_nil] at hxor
    have heq : contribution p i = xorBy (contribution p) before := by simpa using (BitVec.xor_eq_zero_iff.mp hxor).symm
    refine absurd ?_ (not_inSpan_of_insert hrows' h.reduced)
    rw [heq]
    exact inSpan_xorBy fun j hj => h.offered j (h.accepted.subset (hbefore.subset hj))

/-- One bit offered: a rejected one is in the span already. -/
theorem PassKeeps.afterBit (i : Nat) : PassKeeps p (seen ++ [i]) (offerBit p st i) := by
  rw [offerBit]
  cases hinsert : insertVec i (contribution p i) st.rows with
  | none =>
    exact { h with
      accepted := h.accepted.trans (List.sublist_append_left seen [i])
      offered := List.forall_mem_append.mpr ⟨h.offered, List.forall_mem_singleton.mpr (inSpan_of_rejected hinsert)⟩ }
  | some rows =>
    exact
      { reduced := reduced_insert h.reduced hinsert
        count := by rw [insertVec_length hinsert, h.count, List.length_append, List.length_singleton]
        accepted := h.accepted.append (.refl [i])
        named := named_of_insert hinsert (List.mem_append_right _ (List.mem_singleton_self i)) fun r hr j hj =>
          List.mem_append_left _ (h.named r hr hj)
        offered := List.forall_mem_append.mpr ⟨fun j hj => (h.offered j hj).trans (inSpan_row_of_insert hinsert),
          List.forall_mem_singleton.mpr (inSpan_vec_of_insert hinsert)⟩
        independent := fun _ => h.independent_insert hinsert }

theorem PassKeeps.afterBits (order : List Nat) : PassKeeps p (seen ++ order) (order.foldl (offerBit p) st) := by
  induction order generalizing seen st with
  | nil => rwa [List.append_nil]
  | cons i order ih =>
    have hrest := ih (h.afterBit i)
    rwa [List.append_assoc] at hrest

/-- Another order of the same bits is accepted no further. -/
theorem PassKeeps.count_le {seen' : List Nat} {st' : Pass} (h' : PassKeeps p seen' st') (hseen : seen ⊆ seen') :
    st.solved.length ≤ st'.solved.length := by
  rw [← h.count, ← h'.count]
  refine length_le_of_inSpan h.reduced h'.reduced fun r hr => (h.inSpan_solved r hr).trans fun i hi => ?_
  exact h'.offered i (hseen (h.accepted.subset hi))

end

/-- The pass over the free bits in the order a draw gives. -/
def drawnPass (draw : Nat → Nat) (p : Template) : Pass := offerAll p (permute draw p.free)

theorem passKeeps_drawnPass (draw : Nat → Nat) (p : Template) : PassKeeps p (permute draw p.free) (drawnPass draw p) :=
  (passKeeps_start p).afterBits (permute draw p.free)

/-- The number of accepted bits is that of the pivots, which the contributions of all free bits determine (R467). -/
theorem drawnPass_count (draw draw' : Nat → Nat) (p : Template) :
    (drawnPass draw p).solved.length = (drawnPass draw' p).solved.length := by
  have hsame := (permute_perm draw p.free).trans (permute_perm draw' p.free).symm
  exact Nat.le_antisymm ((passKeeps_drawnPass draw p).count_le (passKeeps_drawnPass draw' p) hsame.subset)
    ((passKeeps_drawnPass draw' p).count_le (passKeeps_drawnPass draw p) hsame.symm.subset)

theorem solveTemplate_rank (draw draw' : Nat → Nat) (p : Template) :
    (solveTemplate draw p).rank = (solveTemplate draw' p).rank := by
  unfold solveTemplate
  split_ifs
  · rfl
  · exact drawnPass_count draw draw' p

/-! The command (R322, R340). -/

/-- Raw SOLVEBLK past its checks. -/
theorem solveRaw_of_checks {chosen : Nat → Nat} {s : State} (hdata : rawLengthLegal .td s.len0.toNat = true)
    (hecc : rawLengthLegal .te s.len1.toNat = true)
    (hpair : rsSupported chosen (s.len0.toNat / 8) (s.len1.toNat / 8) = true) (hlabel : badLabel s = none)
    (draw : Nat → Nat) : solveRaw chosen draw 0 s =
      .next (placeSolution (rawTemplate s) (solveTemplate draw (rawTemplate s)) s) := by
  simp [solveRaw, hdata, hecc, hpair, hlabel]

/-- SOLVEBLK k past its checks. -/
theorem solveLayoutBlock_of_checks {k : Nat} {s : State} (hlay : s.cfg.layv = true) (hmask : s.cfg.mskv = true)
    (hk : k < nblocks (curRow s)) (hdata : s.len0.toNat = 8 * dataLen (curRow s) k)
    (hecc : s.len1.toNat = 8 * (curRow s).eccLen) (hlabel : badLabel s = none) (draw : Nat → Nat) :
    solveLayoutBlock draw k s = .next (placeSolution (blockTemplate k s) (solveTemplate draw (blockTemplate k s))
      (writeBuf .data (dataOff (curRow s) k) (packBytes (solveTemplate draw (blockTemplate k s)).bits) s)) := by
  simp [solveLayoutBlock, hlay, hmask, Nat.not_le.mpr hk, hdata, hecc, hlabel]

/-- The registers of a solve depend on the draw through the rank alone. -/
theorem placeSolution_registers (draw draw' : Nat → Nat) (p : Template) (u u' : State) :
    (placeSolution p (solveTemplate draw p) u).r0 = (placeSolution p (solveTemplate draw' p) u').r0 ∧
    (placeSolution p (solveTemplate draw p) u).r1 = (placeSolution p (solveTemplate draw' p) u').r1 ∧
    (placeSolution p (solveTemplate draw p) u).r2 = (placeSolution p (solveTemplate draw' p) u').r2 := by
  simp only [placeSolution_r0, placeSolution_r1, placeSolution_r2, solveTemplate_rank draw draw', and_self]

/-- Settles O50: no check reads the draw, and the rank does not depend on it. -/
theorem rankIndependentOfDraw : Obligations.RankIndependentOfDraw := by
  unfold Obligations.RankIndependentOfDraw
  intro chosen draw draw' s t t' k hs ht hruns
  obtain ⟨hrun, hrun'⟩ | ⟨hrun, hrun'⟩ := hruns
  · obtain ⟨code, info, -, rfl⟩ | ⟨rfl, hdata, hecc, hpair, hlabel, rfl⟩ := solveRaw_next hrun
    · exact absurd ht (raise_status_ne _ _ _ _)
    · rw [solveRaw_of_checks hdata hecc hpair hlabel] at hrun'
      obtain rfl := Host.Outcome.next.inj hrun'
      exact ⟨hs, placeSolution_registers draw draw' (rawTemplate s) s s⟩
  · obtain ⟨code, info, -, rfl⟩ | ⟨hlay, hmask, hk, hdata, hecc, hlabel, rfl⟩ := solveLayoutBlock_next hrun
    · exact absurd ht (raise_status_ne _ _ _ _)
    · rw [solveLayoutBlock_of_checks hlay hmask hk hdata hecc hlabel] at hrun'
      obtain rfl := Host.Outcome.next.inj hrun'
      exact ⟨by simpa using hs, placeSolution_registers ..⟩

end Sys2Proof.Proofs
end

section
/-! The redundancy of a block as a function of its bits: at the targets it is the xor of the contributions of the set bits
(R162, R166, R335), so what a solve leaves at a target is the target's value but for the leftover's bit (R338). -/

namespace Sys2Proof.Proofs

open Sys2Proof Sys2Proof.Machine Sys2Proof.Claims

/-! Codewords by their bits in stream order (R11, R321). -/

theorem getD_flatMap_octet (bytes : List Byte) (j : Nat) : (bytes.flatMap octet).getD j false = bitOfBytes bytes j := by
  induction bytes generalizing j with
  | nil => simp [bitOfBytes]
  | cons b bytes ih =>
    rw [List.flatMap_cons]
    obtain hj | hj := Nat.lt_or_ge j 8
    · rw [List.getD_append _ _ _ _ (by rwa [octet_length]), bitOfBytes, Nat.div_eq_of_lt hj, Nat.mod_eq_of_lt hj]
      simp [octet, List.getD_eq_getElem?_getD, hj]
    · rw [List.getD_append_right _ _ _ _ (by rwa [octet_length]), octet_length, ih, bitOfBytes, bitOfBytes,
        show j / 8 = (j - 8) / 8 + 1 by omega, show (j - 8) % 8 = j % 8 by omega, List.getD_cons_succ]

theorem bitOfBytes_packBytes {bits : List Bool} (h : bits.length % 8 = 0) (j : Nat) :
    bitOfBytes (packBytes bits) j = bits.getD j false := by
  rw [← getD_flatMap_octet, octets_packBytes h]

theorem bitOfBytes_xorBytes {a b : List Byte} (h : a.length = b.length) (j : Nat) :
    bitOfBytes (xorBytes a b) j = (bitOfBytes a j ^^ bitOfBytes b j) := by
  have hbyte : (xorBytes a b).getD (j / 8) 0 = a.getD (j / 8) 0 ^^^ b.getD (j / 8) 0 := by
    obtain hj | hj := Nat.lt_or_ge (j / 8) a.length
    · simp [xorBytes, List.getD_eq_getElem?_getD, hj, h ▸ hj]
    · simp [hj, h ▸ hj]
  rw [bitOfBytes, bitOfBytes, bitOfBytes, streamBit, hbyte, BitVec.getLsbD_xor]

/-! Bits at the targets, as vectors (R324). -/

/-- The vector of a value for every ecc bit, taken at the targets. -/
def targetVec (p : Template) (value : Nat → Bool) : SolverVec := vecOf (p.targets.map value)

theorem projectTargets_eq (p : Template) (ecc : List Byte) : projectTargets p ecc = targetVec p (bitOfBytes ecc) := rfl

theorem targetVec_getLsbD (p : Template) (value : Nat → Bool) {t : Nat} (ht : t < p.targets.length) (h256 : t < 256) :
    (targetVec p value).getLsbD t = value (p.targets.getD t 0) := by
  rw [targetVec, vecOf_getLsbD _ h256]
  simp [List.getD_eq_getElem?_getD, ht]

/-- A vector of bits at the targets has none past the last. -/
theorem targetVec_getLsbD_of_ge (p : Template) (value : Nat → Bool) {t : Nat} (ht : p.targets.length ≤ t) :
    (targetVec p value).getLsbD t = false := by
  obtain h256 | h256 := Nat.lt_or_ge t 256
  · rw [targetVec, vecOf_getLsbD _ h256]
    simp [List.getD_eq_getElem?_getD, ht]
  · exact BitVec.getLsbD_of_ge _ _ h256

theorem targetVec_xor (p : Template) (value value' : Nat → Bool) :
    targetVec p (fun j => value j ^^ value' j) = targetVec p value ^^^ targetVec p value' := by
  refine BitVec.eq_of_getLsbD_eq fun t h256 => ?_
  obtain ht | ht := Nat.lt_or_ge t p.targets.length
  · rw [BitVec.getLsbD_xor, targetVec_getLsbD p _ ht h256, targetVec_getLsbD p value ht h256,
      targetVec_getLsbD p value' ht h256]
  · simp [targetVec_getLsbD_of_ge p _ ht]

theorem projectTargets_xorBytes (p : Template) {a b : List Byte} (h : a.length = b.length) :
    projectTargets p (xorBytes a b) = projectTargets p a ^^^ projectTargets p b := by
  rw [projectTargets_eq, projectTargets_eq, projectTargets_eq, ← targetVec_xor]
  exact congrArg (targetVec p) (funext (bitOfBytes_xorBytes h))

/-! The redundancy at the targets (R335). -/

theorem xorBy_filter_xor {α : Type} {f : α → SolverVec} (d d' : α → Bool) (l : List α) :
    xorBy f (l.filter fun a => d a ^^ d' a) = xorBy f (l.filter d) ^^^ xorBy f (l.filter d') := by
  induction l with
  | nil => simp
  | cons a l ih =>
    have hswap : xorBy f (l.filter d) ^^^ (f a ^^^ xorBy f (l.filter d')) =
        f a ^^^ (xorBy f (l.filter d) ^^^ xorBy f (l.filter d')) := by ac_rfl
    cases hd : d a <;> cases hd' : d' a <;> simp [hd, hd', ih, BitVec.xor_assoc, hswap]

/-- The codewords of a block of `n` bits. -/
def blockBytes (n : Nat) (d : Nat → Bool) : List Byte := packBytes ((List.range n).map d)

@[simp] theorem blockBytes_length (n : Nat) (d : Nat → Bool) : (blockBytes n d).length = n / 8 := by simp [blockBytes]

/-- The redundancy at the targets of the block with the given data bits. -/
def blockVec (p : Template) (d : Nat → Bool) : SolverVec := projectTargets p (rs (blockBytes p.td.length d) p.eccCw)

/-- The place in stream order of bit `pb.2` of byte `pb.1` (R11). -/
def streamIndex (pb : Nat × Nat) : Nat := 8 * pb.1 + (7 - pb.2)

/-- Byte after byte, the places of the bits are all the places. -/
theorem streamIndex_perm (n : Nat) :
    (((List.range n).flatMap fun p => (List.range 8).map fun b => (p, b)).map streamIndex).Perm (List.range (8 * n)) := by
  induction n with
  | zero => exact .refl _
  | succ n ih =>
    rw [List.range_succ (n := n), List.flatMap_append, List.map_append, Nat.mul_succ, List.range_add]
    have hbyte : ((List.range 8).map fun b => 7 - b).Perm (List.range 8) := by decide
    refine ih.append ?_
    rw [List.flatMap_singleton, List.map_map]
    have hplaces := hbyte.map (8 * n + ·)
    rwa [List.map_map] at hplaces

theorem streamIndex_div_mod {pb : Nat × Nat} (hb : pb.2 < 8) : streamIndex pb / 8 = pb.1 ∧ 7 - streamIndex pb % 8 = pb.2 := by
  rw [streamIndex]
  omega

theorem getLsbD_blockBytes {n : Nat} (hn : n % 8 = 0) (d : Nat → Bool) {pb : Nat × Nat} (hb : pb.2 < 8)
    (hplace : streamIndex pb < n) : ((blockBytes n d).getD pb.1 0).getLsbD pb.2 = d (streamIndex pb) := by
  have hbit := bitOfBytes_packBytes (bits := (List.range n).map d) (by simpa using hn) (streamIndex pb)
  obtain ⟨hdiv, hmod⟩ := streamIndex_div_mod hb
  rw [bitOfBytes, streamBit, hdiv, hmod] at hbit
  rw [blockBytes, hbit]
  simp [List.getD_eq_getElem?_getD, hplace]

theorem contribution_streamIndex (p : Template) {pb : Nat × Nat} (hb : pb.2 < 8) :
    contribution p (streamIndex pb) = projectTargets p (sbc pb.2 (p.dataCw - 1 - pb.1) p.eccCw) := by
  obtain ⟨hdiv, hmod⟩ := streamIndex_div_mod hb
  rw [contribution, hdiv, hmod]

section
variable {p : Template} (hp : TemplateOk p)
include hp

/-- A set bit adds its contribution, another one nothing. -/
theorem projectTargets_foldl_addBit (d : Nat → Bool) {pbs : List (Nat × Nat)} (hpbs : ∀ pb ∈ pbs, pb.1 < p.dataCw ∧ pb.2 < 8)
    {acc : List Byte} (hacc : acc.length = p.eccCw) :
    projectTargets p (pbs.foldl (addBit (blockBytes p.td.length d) p.eccCw) acc) =
      projectTargets p acc ^^^ xorBy (contribution p) ((pbs.map streamIndex).filter d) := by
  have ⟨hlen, _⟩ := hp
  induction pbs generalizing acc with
  | nil => simp
  | cons pb pbs ih =>
    obtain ⟨⟨hbyte, hbit⟩, hpbs⟩ := List.forall_mem_cons.mp hpbs
    have hset := getLsbD_blockBytes (n := p.td.length) (by omega) d hbit (by rw [streamIndex]; omega)
    have hbytes : (blockBytes p.td.length d).length = p.dataCw := by rw [blockBytes_length]; omega
    rw [List.foldl_cons, List.map_cons, addBit, hset, hbytes]
    cases hd : d (streamIndex pb) with
    | true =>
      rw [if_pos rfl, ih hpbs (by simp [hacc]), projectTargets_xorBytes p (by simp [hacc]), List.filter_cons_of_pos hd,
        xorBy_cons, contribution_streamIndex p hbit, BitVec.xor_assoc]
    | false => rw [if_neg Bool.false_ne_true, ih hpbs hacc, List.filter_cons_of_neg (by simp [hd])]

/-- The redundancy at the targets is the xor of the contributions of the set bits. -/
theorem blockVec_eq_xorBy (d : Nat → Bool) : blockVec p d = xorBy (contribution p) ((List.range p.td.length).filter d) := by
  have ⟨hlen, _⟩ := hp
  have hbytes : (blockBytes p.td.length d).length = p.dataCw := by rw [blockBytes_length]; omega
  have hzeros : projectTargets p (List.replicate p.eccCw 0) = 0 := by
    have h := projectTargets_xorBytes p (a := List.replicate p.eccCw 0) rfl
    rwa [xorBytes_self, List.length_replicate, BitVec.xor_self] at h
  rw [blockVec, rs_eq_foldl_addBit, hbytes, projectTargets_foldl_addBit hp d ?_ List.length_replicate, hzeros, hlen]
  · exact BitVec.zero_xor.trans (xorBy_perm ((streamIndex_perm p.dataCw).filter d))
  · simp only [List.mem_flatMap, List.mem_map, List.mem_range]
    rintro _ ⟨i, hi, b, hb, rfl⟩
    exact ⟨hi, hb⟩

theorem blockVec_xor (d d' : Nat → Bool) : blockVec p (fun i => d i ^^ d' i) = blockVec p d ^^^ blockVec p d' := by
  rw [blockVec_eq_xorBy hp, blockVec_eq_xorBy hp d, blockVec_eq_xorBy hp d', xorBy_filter_xor]

/-- The block whose set bits are those of a set. -/
theorem blockVec_contains {x : List Nat} (hset : x.Nodup) (hlt : ∀ i ∈ x, i < p.td.length) :
    blockVec p x.contains = xorBy (contribution p) x := by
  rw [blockVec_eq_xorBy hp]
  refine xorBy_perm ((List.perm_ext_iff_of_nodup (List.nodup_range.filter _) hset).mpr fun i => ?_)
  simpa using hlt i

end

/-! The steps of the solve over the pass (R336 to R338). -/

/-- A bit of the residual message (R336). -/
def residualBit (p : Template) (solved : List Nat) (i : Nat) : Bool := if solved.contains i then false else p.dataValue i

/-- What the solve leaves over of the correction vector (R328, R338). -/
def leftover (p : Template) (st : Pass) : SolverVec := (solveVec st.rows (correction p st.solved)).1

/-- The solved bits set (R338). -/
def setBits (p : Template) (st : Pass) : List Nat := (solveVec st.rows (correction p st.solved)).2

/-- A bit of the resolved block (R338). -/
def resolvedBit (p : Template) (st : Pass) (i : Nat) : Bool :=
  if st.solved.contains i then (setBits p st).contains i else p.dataValue i

theorem correction_eq (p : Template) (solved : List Nat) :
    correction p solved = targetVec p p.targetValue ^^^ blockVec p (residualBit p solved) := rfl

theorem resolvedBit_of_not_mem {p : Template} {st : Pass} {i : Nat} (hi : i ∉ st.solved) : resolvedBit p st i = p.dataValue i :=
  if_neg (by simpa using hi)

/-- The block's redundancy has the declared value at every target (R339). -/
def MeetsTargets (p : Template) (d : Nat → Bool) : Prop :=
  ∀ j ∈ p.targets, bitOfBytes (rs (blockBytes p.td.length d) p.eccCw) j = p.targetValue j

theorem mem_markedBits {labels : List Label} {i : Nat} :
    i ∈ markedBits labels ↔ i < labels.length ∧ (labelAt labels i).kind = true := by
  simp [markedBits]

theorem targets_length_le {p : Template} (hp : TemplateOk p) : p.targets.length ≤ 256 := by
  obtain ⟨-, hecc, -, -, hmax⟩ := hp
  have hle := List.length_filter_le (fun j => (labelAt p.te j).kind) (List.range p.te.length)
  rw [List.length_range] at hle
  simp only [Config.genMax] at hmax
  rw [Template.targets, markedBits]
  omega

theorem targetVec_inj {p : Template} (h256 : p.targets.length ≤ 256) {value value' : Nat → Bool} :
    targetVec p value = targetVec p value' ↔ ∀ j ∈ p.targets, value j = value' j := by
  refine ⟨fun h j hj => ?_, fun h => congrArg vecOf (List.map_congr_left h)⟩
  obtain ⟨t, ht, rfl⟩ := List.mem_iff_getElem.mp hj
  have hbit := congrArg (BitVec.getLsbD · t) h
  simpa [targetVec_getLsbD p _ ht (by omega), List.getD_eq_getElem?_getD, ht] using hbit

theorem meetsTargets_iff {p : Template} (hp : TemplateOk p) (d : Nat → Bool) :
    MeetsTargets p d ↔ blockVec p d = targetVec p p.targetValue :=
  (targetVec_inj (targets_length_le hp)).symm

section
variable {p : Template} {seen : List Nat} {st : Pass} (h : PassKeeps p seen st)
include h

/-- The contributions have no bit past the last target, so neither have the rows. -/
theorem PassKeeps.row_getLsbD {r : Row} (hr : r ∈ st.rows) {t : Nat} (ht : p.targets.length ≤ t) : r.vec.getLsbD t = false := by
  rw [h.reduced.recorded r hr]
  exact xorBy_getLsbD_eq_false fun i _ => targetVec_getLsbD_of_ge p _ ht

theorem PassKeeps.pivots_subset : st.rows.map Row.pivot ⊆ List.range p.targets.length := fun q hq => by
  obtain ⟨r, hr, rfl⟩ := List.mem_map.mp hq
  obtain ⟨hbit, -⟩ := h.reduced.first_bit r hr
  refine List.mem_range.mpr (Nat.lt_of_not_le fun hle => ?_)
  exact absurd hbit (Bool.eq_false_iff.mp (h.row_getLsbD hr hle))

/-- There are no more accepted bits than targets. -/
theorem PassKeeps.count_le_targets : st.solved.length ≤ p.targets.length := by
  rw [← h.count]
  simpa using ((pivots_nodup h.reduced).subperm h.pivots_subset).length_le

/-- With as many accepted bits as targets every target has a pivot. -/
theorem PassKeeps.exists_pivot (hrank : st.solved.length = p.targets.length) {t : Nat} (ht : t < p.targets.length) :
    ∃ r ∈ st.rows, r.pivot = t := by
  have hperm := ((pivots_nodup h.reduced).subperm h.pivots_subset).perm_of_length_le (by simp [h.count, hrank])
  exact List.mem_map.mp (hperm.mem_iff.mpr (List.mem_range.mpr ht))

theorem PassKeeps.setBits_subset : setBits p st ⊆ st.solved := fun i hi => by
  obtain hi | ⟨r, hr, hi⟩ := mem_reduceBy hi
  · exact absurd hi List.not_mem_nil
  · exact h.named r hr hi

/-- The correction is the contributions of the bits set and the leftover (R328). -/
theorem PassKeeps.correction_split : (setBits p st).Nodup ∧
    correction p st.solved = xorBy (contribution p) (setBits p st) ^^^ leftover p st := by
  obtain ⟨hsplit, hset, -⟩ := solveLeavesNothingAtThePivots (contribution p) st.rows (correction p st.solved) h.reduced
  exact ⟨hset, hsplit⟩

theorem PassKeeps.resolvedBit_eq (i : Nat) :
    resolvedBit p st i = (residualBit p st.solved i ^^ (setBits p st).contains i) := by
  unfold resolvedBit residualBit
  split_ifs with hi
  · rw [Bool.false_xor]
  · have hset : i ∉ setBits p st := fun hset => hi (by simpa using h.setBits_subset hset)
    simp [hset]

/-- At the targets the resolved block has their values, but for the leftover (R338). -/
theorem PassKeeps.blockVec_resolvedBit (hp : TemplateOk p) (hseen : ∀ i ∈ seen, i < p.td.length) :
    blockVec p (resolvedBit p st) = targetVec p p.targetValue ^^^ leftover p st := by
  obtain ⟨hset, hsplit⟩ := h.correction_split
  have hlt : ∀ i ∈ setBits p st, i < p.td.length := fun i hi => hseen i (h.accepted.subset (h.setBits_subset hi))
  rw [funext h.resolvedBit_eq, blockVec_xor hp, blockVec_contains hp hset hlt]
  have hnames : xorBy (contribution p) (setBits p st) = correction p st.solved ^^^ leftover p st := by
    rw [hsplit, BitVec.xor_assoc, BitVec.xor_self, BitVec.xor_zero]
  rw [hnames, correction_eq, BitVec.xor_comm (targetVec p p.targetValue), BitVec.xor_assoc, xor_cancel_left]

theorem PassKeeps.meetsTargets (hp : TemplateOk p) (hseen : ∀ i ∈ seen, i < p.td.length) (hleft : leftover p st = 0) :
    MeetsTargets p (resolvedBit p st) := by
  rw [meetsTargets_iff hp, h.blockVec_resolvedBit hp hseen, hleft]
  exact BitVec.xor_zero

/-- With a pivot for every target nothing is left over (R339). -/
theorem PassKeeps.leftover_of_rank (hrank : st.solved.length = p.targets.length) : leftover p st = 0 := by
  refine BitVec.eq_of_getLsbD_eq fun t h256 => ?_
  obtain ht | ht := Nat.lt_or_ge t p.targets.length
  · obtain ⟨r, hr, rfl⟩ := h.exists_pivot hrank ht
    simpa [leftover, solveVec] using reduceBy_pivot h.reduced (correction p st.solved) [] r hr
  · rw [leftover, solveVec, reduceBy_getLsbD fun r hr => h.row_getLsbD hr ht, correction_eq, BitVec.getLsbD_xor,
      targetVec_getLsbD_of_ge p _ ht, blockVec, projectTargets_eq, targetVec_getLsbD_of_ge p _ ht]
    simp

/-- Values of the offered bits that meet the targets differ from the residual in offered bits only, so the correction is in
the span and nothing is left over. -/
theorem PassKeeps.leftover_of_possible (hp : TemplateOk p) {d : Nat → Bool}
    (hfixed : ∀ i, i < p.td.length → i ∉ seen → d i = p.dataValue i) (hd : MeetsTargets p d) : leftover p st = 0 := by
  refine reduceBy_of_inSpan h.reduced ?_ []
  rw [correction_eq, ← (meetsTargets_iff hp d).mp hd, ← blockVec_xor hp, blockVec_eq_xorBy hp]
  refine inSpan_xorBy fun i hi => h.offered i ?_
  obtain ⟨hlt, hdiffer⟩ := List.mem_filter.mp hi
  by_contra hseen
  have hres : residualBit p st.solved i = p.dataValue i :=
    if_neg (by simpa using fun hs => hseen (h.accepted.subset hs))
  rw [hres, hfixed i (List.mem_range.mp hlt) hseen, Bool.xor_self] at hdiffer
  exact absurd hdiffer Bool.false_ne_true

end

/-! The solve (R332, R338). -/

section
variable (draw : Nat → Nat) (p : Template)

theorem mem_permute_free {i : Nat} : i ∈ permute draw p.free ↔ i ∈ p.free := (permute_perm draw p.free).mem_iff

theorem lt_of_mem_free {i : Nat} (hi : i ∈ permute draw p.free) : i < p.td.length :=
  (mem_markedBits.mp ((mem_permute_free draw p).mp hi)).1

/-- With no target the pass accepts nothing, so the solve is the same with and without one. -/
theorem solveTemplate_eq : solveTemplate draw p =
    ⟨(List.range p.td.length).map (resolvedBit p (drawnPass draw p)), (drawnPass draw p).solved.length⟩ := by
  unfold solveTemplate
  split_ifs with htargets
  · have hnone : (drawnPass draw p).solved = [] :=
      List.eq_nil_of_length_eq_zero (by simpa [htargets] using (passKeeps_drawnPass draw p).count_le_targets)
    have hbits : resolvedBit p (drawnPass draw p) = p.dataValue :=
      funext fun i => resolvedBit_of_not_mem (by simp [hnone])
    rw [hbits, hnone, List.length_nil]
  · rfl

end

/-- Settles O54: the solve's redundancy at the targets is their values xor the leftover. -/
theorem targetsAreMetUpToTheLeftover : Obligations.TargetsAreMetUpToTheLeftover := by
  unfold Obligations.TargetsAreMetUpToTheLeftover
  intro draw p hp st t ht
  have h256 : t < 256 := ht.trans_le (targets_length_le hp)
  have hvec := (passKeeps_drawnPass draw p).blockVec_resolvedBit hp fun i => lt_of_mem_free draw p
  have hbit := congrArg (BitVec.getLsbD · t) hvec
  simp only [BitVec.getLsbD_xor, blockVec, projectTargets_eq, targetVec_getLsbD p _ ht h256] at hbit
  rw [solveTemplate_eq]
  exact hbit

end Sys2Proof.Proofs
end

section
/-! SOLVEBLK: its faults in the order they are checked (R322, R340, R402). -/

namespace Sys2Proof.Proofs

open Sys2Proof Sys2Proof.Machine Sys2Proof.Claims

/-! The label check (R43, R322). -/

theorem labelLegal_iff : ∀ b : Byte, labelLegal b = true ↔ Legal b := by
  unfold Legal
  decide +kernel

theorem firstBadLabel_eq_none {b : Buffer} {n : Nat} {s : State} (h : ∀ i, i < n → Legal (readByte s (b.base + i))) :
    firstBadLabel (readBuf b n s) = none := by
  refine List.findIdx?_eq_none_iff.mpr fun v hv => ?_
  obtain ⟨i, hi, rfl⟩ := List.mem_map.mp hv
  simpa [labelLegal_iff] using h i (List.mem_range.mp hi)

theorem firstBadLabel_eq_some {b : Buffer} {n i : Nat} {s : State} (hi : i < n) (hbad : ¬ Legal (readByte s (b.base + i)))
    (hgood : ∀ j, j < i → Legal (readByte s (b.base + j))) : firstBadLabel (readBuf b n s) = some i := by
  have hbyte : ∀ j (hj : j < (readBuf b n s).length), (readBuf b n s)[j] = readByte s (b.base + j) := fun j hj => by
    simp [readBuf]
  refine List.findIdx?_eq_some_iff_getElem.mpr ⟨by simpa using hi, ?_, fun j hj => ?_⟩
  · rw [hbyte, Bool.not_eq_true', Bool.eq_false_iff, Ne, labelLegal_iff]
    exact hbad
  · rw [hbyte, Bool.not_eq_true', Bool.eq_false_iff, Ne, labelLegal_iff, not_not]
    exact hgood j hj

theorem badLabel_of_legal {s : State} (h : LabelsLegal s) : badLabel s = none := by
  obtain ⟨htd, hte⟩ := h
  rw [badLabel, dataLabels, firstBadLabel_eq_none htd, eccLabels, firstBadLabel_eq_none hte]
  rfl

theorem badLabel_of_td {s : State} {i : Nat} (hi : i < s.len0.toNat) (hbad : ¬ Legal (tdLabel s i))
    (hgood : ∀ j, j < i → Legal (tdLabel s j)) : badLabel s = some i := by
  rw [badLabel, dataLabels, firstBadLabel_eq_some (b := .td) hi hbad hgood]

theorem badLabel_of_te {s : State} {j : Nat} (hj : j < s.len1.toNat) (htd : ∀ i, i < s.len0.toNat → Legal (tdLabel s i))
    (hbad : ¬ Legal (teLabel s j)) (hgood : ∀ i, i < j → Legal (teLabel s i)) : badLabel s = some (0x8000 + j) := by
  rw [badLabel, dataLabels, firstBadLabel_eq_none htd, eccLabels, firstBadLabel_eq_some (b := .te) hj hbad hgood]
  rfl

/-! The checks of the raw form. -/

theorem rawLengths_iff {s : State} :
    RawLengths s ↔ rawLengthLegal .td s.len0.toNat = true ∧ rawLengthLegal .te s.len1.toNat = true := by
  rw [rawLengthLegal_iff, rawLengthLegal_iff, RawLengths]
  simp only [Buffer.size, and_assoc]

section
variable {chosen draw : Nat → Nat} {s : State}

theorem solveRaw_of_length0 (h : ¬ rawLengthLegal .td s.len0.toNat = true) :
    solveRaw chosen draw 0 s = takeFault opSolveblk .length s.len0.toNat s := by
  simp [solveRaw, h]

theorem solveRaw_of_length1 (hdata : rawLengthLegal .td s.len0.toNat = true) (h : ¬ rawLengthLegal .te s.len1.toNat = true) :
    solveRaw chosen draw 0 s = takeFault opSolveblk .length s.len1.toNat s := by
  simp [solveRaw, hdata, h]

theorem solveRaw_of_pair (hlen : RawLengths s) (h : ¬ Supported chosen (s.len0.toNat / 8) (s.len1.toNat / 8)) :
    solveRaw chosen draw 0 s = takeFault opSolveblk .rsunsup (pairInfo (s.len0.toNat / 8) (s.len1.toNat / 8)) s := by
  obtain ⟨hdata, hecc⟩ := rawLengths_iff.mp hlen
  simp [solveRaw, hdata, hecc, mt rsSupported_iff_supported.mp h]

theorem solveRaw_of_badLabel (hlen : RawLengths s) (hpair : Supported chosen (s.len0.toNat / 8) (s.len1.toNat / 8)) {i : Nat}
    (h : badLabel s = some i) : solveRaw chosen draw 0 s = takeFault opSolveblk .label i s := by
  obtain ⟨hdata, hecc⟩ := rawLengths_iff.mp hlen
  simp [solveRaw, hdata, hecc, rsSupported_iff_supported.mpr hpair, h]

end

/-! The checks of the layout form. -/

section
variable {draw : Nat → Nat} {k : Nat} {s : State} (hlay : s.cfg.layv = true) (hmask : s.cfg.mskv = true)
include hlay hmask

theorem solveLayoutBlock_of_range (hk : nblocks (curRow s) ≤ k) :
    solveLayoutBlock draw k s = takeFault opSolveblk .range k s := by
  simp [solveLayoutBlock, hlay, hmask, hk]

theorem solveLayoutBlock_of_length0 (hk : k < nblocks (curRow s)) (h : s.len0.toNat ≠ 8 * dataLen (curRow s) k) :
    solveLayoutBlock draw k s = takeFault opSolveblk .length s.len0.toNat s := by
  simp [solveLayoutBlock, hlay, hmask, Nat.not_le.mpr hk, h]

theorem solveLayoutBlock_of_length1 (hk : k < nblocks (curRow s)) (hdata : s.len0.toNat = 8 * dataLen (curRow s) k)
    (h : s.len1.toNat ≠ 8 * (curRow s).eccLen) : solveLayoutBlock draw k s = takeFault opSolveblk .length s.len1.toNat s := by
  simp [solveLayoutBlock, hlay, hmask, Nat.not_le.mpr hk, hdata, h]

theorem solveLayoutBlock_of_badLabel (hk : k < nblocks (curRow s)) (hdata : s.len0.toNat = 8 * dataLen (curRow s) k)
    (hecc : s.len1.toNat = 8 * (curRow s).eccLen) {i : Nat} (h : badLabel s = some i) :
    solveLayoutBlock draw k s = takeFault opSolveblk .label i s := by
  simp [solveLayoutBlock, hlay, hmask, Nat.not_le.mpr hk, hdata, hecc, h]

end

/-- The raw form under the unit's own RS_MAXLEN and draw. -/
theorem exec_solveblk_raw (k : Nat) (s : State) :
    exec (.solveblk k true) s = solveRaw Config.rsMaxLen (Config.draw s.draws) k s := rfl

/-- The layout form under the unit's own draw. -/
theorem exec_solveblk_block (k : Nat) (s : State) :
    exec (.solveblk k false) s = solveLayoutBlock (Config.draw s.draws) k s := rfl

/-- Settles O49: each check of R322 and R340 in its order, the label check last. -/
theorem solverFaults : Obligations.SolverFaults := by
  unfold Obligations.SolverFaults
  intro k s
  simp only [exec_solveblk_raw, exec_solveblk_block]
  refine ⟨fun hk => if_pos hk, fun h => solveRaw_of_length0 (mt rawLengthLegal_iff.mp h),
    fun h0 h8 hmax h => solveRaw_of_length1 (rawLengthLegal_iff.mpr ⟨h0, h8, hmax⟩) (mt rawLengthLegal_iff.mp h),
    solveRaw_of_pair, fun hlen hpair => ⟨fun i hi hbad hgood => ?_, fun j hj htd hbad hgood => ?_⟩, fun hlay => ?_,
    fun hlay hmask => ?_, fun hlay hmask => ⟨solveLayoutBlock_of_range hlay hmask, fun hk =>
      ⟨solveLayoutBlock_of_length0 hlay hmask hk, solveLayoutBlock_of_length1 hlay hmask hk, fun hdata hecc =>
        ⟨fun i hi hbad hgood => ?_, fun j hj htd hbad hgood => ?_⟩⟩⟩⟩
  · exact solveRaw_of_badLabel hlen hpair (badLabel_of_td hi hbad hgood)
  · exact solveRaw_of_badLabel hlen hpair (badLabel_of_te hj htd hbad hgood)
  · simp only [solveLayoutBlock, hlay]
    rfl
  · simp only [solveLayoutBlock, hlay, hmask]
    rfl
  · exact solveLayoutBlock_of_badLabel hlay hmask hk hdata hecc (badLabel_of_td hi hbad hgood)
  · exact solveLayoutBlock_of_badLabel hlay hmask hk hdata hecc (badLabel_of_te hj htd hbad hgood)

end Sys2Proof.Proofs
end

section
/-! The contract of SOLVEBLK (R330 to R340): what the solve of a template says of the bytes both forms leave, and which cells
carry the bits of a block. -/

namespace Sys2Proof.Proofs

open Sys2Proof Sys2Proof.Machine Sys2Proof.Claims

/-! The template of a state (R320, R323, R324, R331). -/

/-- The template has the lengths and labels of the state and a mask bit for every data bit; which mask bits is left open. -/
structure TemplateOf (s : State) (p : Template) : Prop where
  dataCw : p.dataCw = s.len0.toNat / 8
  eccCw : p.eccCw = s.len1.toNat / 8
  td : p.td = (dataLabels s).map labelOf
  te : p.te = (eccLabels s).map labelOf
  md : p.md.length = s.len0.toNat

/-- The redundancy ECC holds, by byte and bit. -/
def eccHeld (t : State) (i b : Nat) : Bool := (readByte t (0x5100 + i)).getLsbD b

theorem labelAt_readBuf {b : Buffer} {n i : Nat} {s : State} (hi : i < n) :
    labelAt ((readBuf b n s).map labelOf) i = labelOf (readByte s (b.base + i)) := by
  simp [labelAt, readBuf, List.getD_eq_getElem?_getD, hi]

theorem markedBits_readBuf (b : Buffer) (n : Nat) (s : State) :
    markedBits ((readBuf b n s).map labelOf) = (List.range n).filter fun i => (readByte s (b.base + i)).getLsbD 1 := by
  rw [markedBits, List.length_map, readBuf_length]
  exact List.filter_congr fun i hi => by rw [labelAt_readBuf (List.mem_range.mp hi), labelOf]

theorem mem_freeBits {s : State} {i : Nat} : i ∈ freeBits s ↔ i < s.len0.toNat ∧ (tdLabel s i).getLsbD 1 = true := by
  simp [freeBits]

theorem mem_targetBits {s : State} {j : Nat} : j ∈ targetBits s ↔ j < s.len1.toNat ∧ (teLabel s j).getLsbD 1 = true := by
  simp [targetBits]

section
variable {s : State} {p : Template} (h : TemplateOf s p)
include h

theorem TemplateOf.td_length : p.td.length = s.len0.toNat := by
  rw [h.td, List.length_map, dataLabels, readBuf_length]

theorem TemplateOf.free : p.free = freeBits s := by
  rw [Template.free, h.td]
  exact markedBits_readBuf .td _ s

theorem TemplateOf.targets : p.targets = targetBits s := by
  rw [Template.targets, h.te]
  exact markedBits_readBuf .te _ s

theorem TemplateOf.dataValue {i : Nat} (hi : i < s.len0.toNat) :
    p.dataValue i = ((tdLabel s i).getLsbD 0 ^^ p.md.getD i false) := by
  rw [Template.dataValue, h.td, dataLabels, labelAt_readBuf hi]
  rfl

theorem TemplateOf.targetValue {j : Nat} (hj : j ∈ targetBits s) :
    p.targetValue j = ((teLabel s j).getLsbD 0 ^^ p.me.getD j false) := by
  rw [Template.targetValue, h.te, eccLabels, labelAt_readBuf (mem_targetBits.mp hj).1]
  rfl

/-- Lengths that are whole codewords make the template one of a block. -/
theorem TemplateOf.ok {n e : Nat} (hdata : s.len0.toNat = 8 * n) (hecc : s.len1.toNat = 8 * e) (hn : 1 ≤ n) (he : 1 ≤ e)
    (hmax : e ≤ 30) : TemplateOk p := by
  have hte : p.te.length = s.len1.toNat := by rw [h.te, List.length_map, eccLabels, readBuf_length]
  have hdataCw := h.dataCw
  have heccCw := h.eccCw
  exact ⟨by rw [h.td_length]; omega, by omega, by omega, by omega, by simp only [Config.genMax]; omega⟩

/-- A contribution is the ecc bits its data bit flips, at the targets (R335). -/
theorem TemplateOf.contribution_eq (i : Nat) : contribution p i = targetVec p (flips s i) := by
  rw [contribution, h.dataCw, h.eccCw]
  rfl

theorem TemplateOf.xorBy_contribution (ids : List Nat) :
    xorBy (contribution p) ids = targetVec p (flipTogether s ids) := by
  induction ids with
  | nil =>
    refine (BitVec.eq_of_getLsbD_eq fun t h256 => ?_).symm
    obtain ht | ht := Nat.lt_or_ge t p.targets.length
    · simp [targetVec_getLsbD p _ ht h256, flipTogether]
    · simp [targetVec_getLsbD_of_ge p _ ht]
  | cons i ids ih =>
    rw [xorBy_cons, ih, h.contribution_eq, ← targetVec_xor]
    rfl

/-- The accepted bits of the pass are a basis (R335, R467). -/
theorem TemplateOf.isBasis (hp : TemplateOk p) {seen : List Nat} {st : Pass} (hst : PassKeeps p seen st)
    (hseen : ∀ i ∈ freeBits s, i ∈ seen) : IsBasis s st.solved := by
  refine ⟨fun i hi => ?_, fun used hused hnone => hst.independent used hused ?_⟩
  · obtain ⟨used, hused, heq⟩ := (hst.offered i (hseen i hi)).trans hst.inSpan_solved
    rw [h.xorBy_contribution, h.contribution_eq, targetVec_inj (targets_length_le hp), h.targets] at heq
    exact ⟨used, hused, heq⟩
  · have hzero := h.xorBy_contribution []
    rw [h.xorBy_contribution, ← xorBy_nil (f := contribution p), hzero, targetVec_inj (targets_length_le hp), h.targets]
    exact hnone

end

/-! The bytes a solve leaves (R338, R340). -/

/-- ECC holds the redundancy of the resolved block. -/
theorem readByte_ecc_placeSolution (draw : Nat → Nat) (p : Template) (u : State) {i : Nat} (hi : i < p.eccCw) :
    readByte (placeSolution p (solveTemplate draw p) u) (0x5100 + i) =
      (rs (blockBytes p.td.length (resolvedBit p (drawnPass draw p))) p.eccCw).getD i 0 := by
  rw [readByte_placeSolution, if_pos (by omega), Nat.add_sub_cancel_left, solveTemplate_eq]
  rfl

theorem bytesAt_ecc_placeSolution (draw : Nat → Nat) (p : Template) (u : State) :
    bytesAt (placeSolution p (solveTemplate draw p) u) 0x5100 p.eccCw =
      rs (blockBytes p.td.length (resolvedBit p (drawnPass draw p))) p.eccCw := by
  have hbytes := bytesAt_eq_of_getD (s := placeSolution p (solveTemplate draw p) u) (a := 0x5100)
    (vs := rs (blockBytes p.td.length (resolvedBit p (drawnPass draw p))) p.eccCw) fun i hi =>
      readByte_ecc_placeSolution draw p u (by rwa [rs_length] at hi)
  rwa [rs_length] at hbytes

theorem bitByte_getLsbD (b : Bool) : (bitByte b).getLsbD 0 = b := by cases b <;> rfl

theorem bitByte_cases (b : Bool) : bitByte b = 0x00 ∨ bitByte b = 0x01 := by cases b <;> decide

section
variable {s : State} {p : Template} (h : TemplateOf s p) (hp : TemplateOk p) (draw : Nat → Nat) (u : State)
include h hp

/-- OUT holds the resolved bits in the domain of the labels. -/
theorem TemplateOf.readByte_out {i : Nat} (hi : i < s.len0.toNat) :
    readByte (placeSolution p (solveTemplate draw p) u) (0x5C00 + i) =
      bitByte (resolvedBit p (drawnPass draw p) i ^^ p.md.getD i false) := by
  obtain ⟨-, -, -, -, hmax⟩ := hp
  simp only [Config.genMax] at hmax
  rw [readByte_placeSolution, if_neg (by omega), solveTemplate_bits_length, h.td_length, h.md, Nat.min_self, if_pos (by omega),
    Nat.add_sub_cancel_left, solveTemplate_eq]
  simp [List.getD_eq_getElem?_getD, hi, h.td_length, h.md]

theorem TemplateOf.outBit {i : Nat} (hi : i < s.len0.toNat) :
    (readByte (placeSolution p (solveTemplate draw p) u) (0x5C00 + i)).getLsbD 0 =
      (resolvedBit p (drawnPass draw p) i ^^ p.md.getD i false) := by
  rw [h.readByte_out hp draw u hi, bitByte_getLsbD]

/-- A bit the pass does not accept keeps its label's value. -/
theorem TemplateOf.outBit_of_not_solved {i : Nat} (hi : i < s.len0.toNat) (hsolved : i ∉ (drawnPass draw p).solved) :
    (readByte (placeSolution p (solveTemplate draw p) u) (0x5C00 + i)).getLsbD 0 = (tdLabel s i).getLsbD 0 := by
  rw [h.outBit hp draw u hi, resolvedBit_of_not_mem hsolved, h.dataValue hi, Bool.xor_assoc, Bool.xor_self, Bool.xor_false]

omit hp in
/-- The registers hold the counts whole. -/
theorem TemplateOf.counts :
    (placeSolution p (solveTemplate draw p) u).r0.toNat = (drawnPass draw p).solved.length ∧
    (placeSolution p (solveTemplate draw p) u).r0.toNat + (placeSolution p (solveTemplate draw p) u).r1.toNat =
      (freeBits s).length ∧
    (placeSolution p (solveTemplate draw p) u).r2.toNat = (targetBits s).length := by
  have hpass := passKeeps_drawnPass draw p
  have hfree := hpass.accepted.length_le
  rw [(permute_perm draw p.free).length_eq, h.free] at hfree
  have hdata : (freeBits s).length ≤ s.len0.toNat := by
    simpa [freeBits] using List.length_filter_le (fun i => (tdLabel s i).getLsbD 1) (List.range s.len0.toNat)
  have hecc : (targetBits s).length ≤ s.len1.toNat := by
    simpa [targetBits] using List.length_filter_le (fun j => (teLabel s j).getLsbD 1) (List.range s.len1.toNat)
  have hlen0 := s.len0.isLt
  have hlen1 := s.len1.isLt
  simp only [placeSolution_r0, placeSolution_r1, placeSolution_r2, word, h.free, h.targets, solveTemplate_eq]
  rw [toNat_ofNat_of_lt (by omega), toNat_ofNat_of_lt (by omega), toNat_ofNat_of_lt (by omega)]
  exact ⟨rfl, by omega, rfl⟩

/-- The clauses of the contract both forms share (R330). -/
theorem TemplateOf.solved (hu : u.draws = s.draws) : Solved s (placeSolution p (solveTemplate draw p) u) := by
  have hpass := passKeeps_drawnPass draw p
  obtain ⟨hrank, hcount, htargets⟩ := h.counts draw u
  have hfree : ∀ {i}, i ∈ permute draw p.free ↔ i ∈ freeBits s := fun {i} => by rw [mem_permute_free, h.free]
  have hle : (drawnPass draw p).solved.length ≤ (targetBits s).length := h.targets ▸ hpass.count_le_targets
  have hset : (drawnPass draw p).solved.Nodup :=
    ((permute_perm draw p.free).nodup_iff.mpr (List.nodup_range.filter _)).sublist hpass.accepted
  exact
    { out_bits := fun i hi => by rw [h.readByte_out hp draw u hi]; exact bitByte_cases _
      fixed := fun i hi hfixed => h.outBit_of_not_solved hp draw u hi fun hs => hfixed (hfree.mp (hpass.accepted.subset hs))
      basis := ⟨_, hset, fun i hi => hfree.mp (hpass.accepted.subset hi), hrank.symm,
        h.isBasis hp hpass fun i hi => hfree.mpr hi,
        fun i hi hs => h.outBit_of_not_solved hp draw u (mem_freeBits.mp hi).1 hs⟩
      no_target := fun hnone => BitVec.eq_of_toNat_eq (hrank.trans (Nat.le_zero.mp (by simpa [hnone] using hle)))
      rank_le := hrank ▸ hle
      free_count := hcount
      target_count := htargets
      draws := by rw [placeSolution_draws, hu, drawsTaken, h.targets] }

/-! The targets (R339). -/

omit hp in
/-- An ecc bit of a block as the statements write it. -/
theorem TemplateOf.eccBit_eq (d : Nat → Bool) (j : Nat) :
    eccBit s d (j / 8) (7 - j % 8) = bitOfBytes (rs (blockBytes p.td.length d) p.eccCw) j := by
  rw [h.td_length, h.eccCw]
  rfl

omit hp in
theorem TemplateOf.meetsTargets_iff_eccBit (d : Nat → Bool) :
    MeetsTargets p d ↔ ∀ j ∈ targetBits s, eccBit s d (j / 8) (7 - j % 8) = p.targetValue j := by
  simp only [MeetsTargets, h.targets, h.eccBit_eq]

/-- What ECC holds at the targets is what the resolved block meets. -/
theorem TemplateOf.eccHeld_of_meetsTargets (hmet : MeetsTargets p (resolvedBit p (drawnPass draw p))) :
    ∀ j ∈ targetBits s, eccHeld (placeSolution p (solveTemplate draw p) u) (j / 8) (7 - j % 8) = p.targetValue j :=
  fun j hj => by
    have hlt : j / 8 < p.eccCw := by
      have hte : p.te.length = s.len1.toNat := by rw [h.te, List.length_map, eccLabels, readBuf_length]
      obtain ⟨-, hecc, -⟩ := hp
      have hj := (mem_targetBits.mp hj).1
      omega
    rw [eccHeld, readByte_ecc_placeSolution draw p u hlt, ← hmet j (h.targets ▸ hj)]
    rfl

/-- Clause (b) of the contract: the targets are met at full rank, and whenever some values of the free bits meet them (R330). -/
theorem TemplateOf.targets_met :
    ((placeSolution p (solveTemplate draw p) u).r0 = (placeSolution p (solveTemplate draw p) u).r2 ∨
      ∃ d : Nat → Bool, (∀ i, i < s.len0.toNat → i ∉ freeBits s → d i = p.dataValue i) ∧
        ∀ j ∈ targetBits s, eccBit s d (j / 8) (7 - j % 8) = p.targetValue j) →
    ∀ j ∈ targetBits s, eccHeld (placeSolution p (solveTemplate draw p) u) (j / 8) (7 - j % 8) = p.targetValue j := by
  have hpass := passKeeps_drawnPass draw p
  refine fun hcase => h.eccHeld_of_meetsTargets hp draw u (hpass.meetsTargets hp (fun i => lt_of_mem_free draw p) ?_)
  obtain hrank | ⟨d, hfixed, hd⟩ := hcase
  · obtain ⟨hr0, -, hr2⟩ := h.counts draw u
    exact hpass.leftover_of_rank (by rw [← hr0, hrank, hr2, h.targets])
  · refine hpass.leftover_of_possible hp (fun i hi hseen => hfixed i (h.td_length ▸ hi) fun hfree => hseen ?_)
      ((h.meetsTargets_iff_eccBit d).mpr hd)
    rwa [mem_permute_free, h.free]

end

/-! The raw form (R320, R323). -/

theorem templateOf_rawTemplate (s : State) : TemplateOf s (rawTemplate s) := ⟨rfl, rfl, rfl, rfl, by simp [rawTemplate]⟩

theorem getD_replicate_false (n i : Nat) : (List.replicate n false).getD i false = false := by
  rw [List.getD_eq_getElem?_getD, List.getElem?_replicate]
  split_ifs <;> rfl

theorem templateOk_rawTemplate {s : State} (hlen : RawLengths s) {chosen : Nat → Nat}
    (hpair : Supported chosen (s.len0.toNat / 8) (s.len1.toNat / 8)) : TemplateOk (rawTemplate s) := by
  obtain ⟨h0, -, -, h1, -, -⟩ := hlen
  obtain ⟨he, hmax, hn, -⟩ := hpair
  exact (templateOf_rawTemplate s).ok (by omega) (by omega) hn he hmax

/-- Raw SOLVEBLK on a legal template, whatever the draw and RS_MAXLEN. -/
theorem solvedRaw_of_supported {s : State} (hlen : RawLengths s) (hlabels : LabelsLegal s) {chosen : Nat → Nat}
    (hpair : Supported chosen (s.len0.toNat / 8) (s.len1.toNat / 8)) (draw : Nat → Nat) :
    ∃ t, solveRaw chosen draw 0 s = .next t ∧ SolvedRaw s t := by
  have h := templateOf_rawTemplate s
  have hp := templateOk_rawTemplate hlen hpair
  obtain ⟨hdata, hecc⟩ := rawLengths_iff.mp hlen
  have ⟨_, hmax, _⟩ := hpair
  refine ⟨_, solveRaw_of_checks hdata hecc (rsSupported_iff_supported.mpr hpair) (badLabel_of_legal hlabels) draw, ?_⟩
  have hmd : ∀ i, (rawTemplate s).md.getD i false = false := getD_replicate_false _
  have hme : ∀ j, (rawTemplate s).me.getD j false = false := getD_replicate_false _
  have hvalue : ∀ j ∈ targetBits s, (rawTemplate s).targetValue j = (teLabel s j).getLsbD 0 := fun j hj => by
    rw [h.targetValue hj, hme, Bool.xor_false]
  have hmet := h.targets_met hp draw s
  exact
    { h.solved hp draw s rfl with
      ecc := by
        have hout : (List.range s.len0.toNat).map (fun i =>
            (readByte (placeSolution (rawTemplate s) (solveTemplate draw (rawTemplate s)) s) (0x5C00 + i)).getLsbD 0) =
            (List.range s.len0.toNat).map (resolvedBit (rawTemplate s) (drawnPass draw (rawTemplate s))) :=
          List.map_congr_left fun i hi => by rw [h.outBit hp draw s (List.mem_range.mp hi), hmd, Bool.xor_false]
        have hheld := bytesAt_ecc_placeSolution draw (rawTemplate s) s
        rw [h.td_length, h.eccCw] at hheld
        rw [hout, hheld]
        exact isCodeword_append_rs _ (hmax.trans (by decide))
      targets := fun hrank j hj => (hmet (.inl hrank) j hj).trans (hvalue j hj)
      possible := fun d hfixed hd j hj => by
        refine (hmet (.inr ⟨d, fun i hi hfree => ?_, fun j hj => (hd j hj).trans (hvalue j hj).symm⟩) j hj).trans (hvalue j hj)
        rw [hfixed i hi hfree, h.dataValue hi, hmd, Bool.xor_false]
      no_data := fun a ha hlt => readByte_placeSolution_of_not_inRange
        (fun hin => absurd hin.1 (by omega)) (fun hin => absurd hin.1 (by omega)) }

/-- Settles O47: the unit's draw and RS_MAXLEN are among all. -/
theorem rawSolveKeepsTheContract : Obligations.RawSolveKeepsTheContract := by
  unfold Obligations.RawSolveKeepsTheContract
  intro s hlen hlabels
  refine ⟨fun hpair => ?_, fun chosen draw hpair => solvedRaw_of_supported hlen hlabels hpair draw⟩
  rw [exec_solveblk_raw]
  exact solvedRaw_of_supported hlen hlabels hpair (Config.draw s.draws)

end Sys2Proof.Proofs
end

section
/-! SOLVEBLK k: the cells that carry the bits of a block, and the contract in the rendered domain (R194, R323, R330). -/

namespace Sys2Proof.Proofs

open Sys2Proof Sys2Proof.Machine Sys2Proof.Claims

/-! The cell of a codeword bit (R194, R206, R323). -/

/-- The cell of a bit of a codeword, by the kind of the codeword. -/
def codewordCell : CwKind → Nat → Nat → Nat → Nat → Cell
  | .data => .data
  | .ecc => .ecc

theorem codewordCell_code (kind : CwKind) (cw bit k i : Nat) : (codewordCell kind cw bit k i).code = kindCode kind := by
  cases kind <;> rfl

theorem codewordCell_inj {kind kind' : CwKind} {cw cw' bit bit' k k' i i' : Nat}
    (h : codewordCell kind cw bit k i = codewordCell kind' cw' bit' k' i') :
    CwEntry.mk kind k i = ⟨kind', k', i'⟩ ∧ bit = bit' := by
  cases kind <;> cases kind' <;> simp_all [codewordCell]

theorem walkedCell_of_entry {stream : List CwEntry} {n : Nat} {e : CwEntry} (h : stream[n / 8]? = some e) :
    walkedCell stream n = codewordCell e.kind (n / 8) (7 - n % 8) e.block e.index := by
  obtain ⟨kind, block, index⟩ := e
  cases kind <;> rw [walkedCell, h] <;> rfl

theorem mem_cwStream_data {r : BlockRow} {k i : Nat} (hk : k < nblocks r) (hi : i < dataLen r k) :
    ⟨.data, k, i⟩ ∈ cwStream r := by
  have hlast := dataLen_le r k
  simp only [cwStream, List.mem_append, List.mem_flatMap, List.mem_map, List.mem_filter, List.mem_range, decide_eq_true_eq]
  exact .inl ⟨i, by omega, k, ⟨hk, hi⟩, rfl⟩

theorem mem_cwStream_ecc {r : BlockRow} {k i : Nat} (hk : k < nblocks r) (hi : i < r.eccLen) : ⟨.ecc, k, i⟩ ∈ cwStream r := by
  simp only [cwStream, List.mem_append, List.mem_flatMap, List.mem_map, List.mem_range]
  exact .inr ⟨i, hi, k, hk, rfl⟩

/-- Columns of entries, each of its own index, repeat no entry. -/
theorem columns_nodup (kind : CwKind) {blocks : Nat → List Nat} (h : ∀ i, (blocks i).Nodup) (n : Nat) :
    ((List.range n).flatMap fun i => (blocks i).map fun k => CwEntry.mk kind k i).Nodup := by
  refine List.nodup_flatMap.mpr ⟨fun i _ => (h i).map fun k k' heq => congrArg CwEntry.block heq,
    List.nodup_range.imp fun hne e he he' => hne ?_⟩
  obtain ⟨k, -, rfl⟩ := List.mem_map.mp he
  obtain ⟨k', -, heq⟩ := List.mem_map.mp he'
  exact (congrArg CwEntry.index heq).symm

/-- The stream has every codeword once (R195). -/
theorem cwStream_nodup (r : BlockRow) : (cwStream r).Nodup := by
  refine List.Nodup.append (columns_nodup .data (fun i => List.nodup_range.filter _) _)
    (columns_nodup .ecc (fun _ => List.nodup_range) _) fun e he he' => ?_
  obtain ⟨i, -, hi⟩ := List.mem_flatMap.mp he
  obtain ⟨k, -, rfl⟩ := List.mem_map.mp hi
  obtain ⟨i', -, hi'⟩ := List.mem_flatMap.mp he'
  obtain ⟨k', -, heq⟩ := List.mem_map.mp hi'
  exact absurd (congrArg CwEntry.kind heq) nofun

/-- The owner of a codeword bit is the cell that the layout gives it (R323). -/
theorem cellOfBit_of_layoutCell {v x y : Nat} {l : Level} {kind : CwKind} {cw bit k i : Nat} (h1 : 1 ≤ v) (hx : x < side v)
    (hy : y < side v) (h : layoutCell v l x y = codewordCell kind cw bit k i) :
    bit ≤ 7 ∧ ⟨kind, k, i⟩ ∈ cwStream (blockRow v l) ∧ cellOfBit v l ⟨kind, k, i⟩ bit = some (x, y) := by
  have hcode : (layoutCell v l x y).code = 7 ∨ (layoutCell v l x y).code = 8 := by
    rw [h, codewordCell_code]
    cases kind <;> simp [kindCode]
  obtain ⟨n, e, hn, he⟩ := (code_eq_data_or_ecc_iff h1 hx hy).mp hcode
  rw [layoutCell_of_walk hn, walkedCell_of_entry he] at h
  obtain ⟨heq, rfl⟩ := codewordCell_inj h
  obtain rfl : e = ⟨kind, k, i⟩ := heq
  obtain ⟨hlt, hget⟩ := List.getElem?_eq_some_iff.mp he
  have hindex : (cwStream (blockRow v l)).findIdx? (fun c => c == ⟨kind, k, i⟩) = some (n / 8) := by
    refine List.findIdx?_eq_some_iff_getElem.mpr ⟨hlt, beq_iff_eq.mpr hget, fun j hj heq => ?_⟩
    have hsame := (cwStream_nodup _).getElem_inj_iff.mp ((beq_iff_eq.mp heq).trans hget.symm)
    omega
  refine ⟨by omega, List.mem_of_getElem? he, ?_⟩
  rw [cellOfBit, hindex, Option.bind_some, show 8 * (n / 8) + (7 - (7 - n % 8)) = n by omega, hn]

/-- Every bit of a codeword has a cell (R194, R208). -/
theorem exists_layoutCell {v : Nat} (h1 : 1 ≤ v) (h40 : v ≤ 40) (l : Level) {e : CwEntry} (he : e ∈ cwStream (blockRow v l))
    {bit : Nat} (hbit : bit ≤ 7) :
    ∃ x y cw, x < side v ∧ y < side v ∧ layoutCell v l x y = codewordCell e.kind cw bit e.block e.index := by
  obtain ⟨n, hn⟩ := List.mem_iff_getElem?.mp he
  obtain ⟨hlt, -⟩ := List.getElem?_eq_some_iff.mp hn
  rw [cwStream_length] at hlt
  have hlong := walk_holds h1 h40 l
  obtain ⟨⟨x, y⟩, hc⟩ : ∃ c, (walk v)[8 * n + (7 - bit)]? = some c := ⟨_, List.getElem?_eq_getElem (by omega)⟩
  obtain ⟨hx, hy, -⟩ := mem_walk.mp (List.mem_of_getElem? hc)
  have hplace : (8 * n + (7 - bit)) / 8 = n := by omega
  refine ⟨x, y, n, hx, hy, ?_⟩
  rw [layoutCell_of_walk hc, walkedCell_of_entry (e := e) (by rwa [hplace]), hplace,
    show 7 - (8 * n + (7 - bit)) % 8 = bit by omega]

section
variable {s : State} (hs : HasLayout s)
include hs

/-- The mask bit of a codeword bit is that of its cell (R323). -/
theorem ownerMaskBits_of_curCell {kind : CwKind} {x y cw bit k i n : Nat} (hx : x < curSide s) (hy : y < curSide s)
    (h : curCell s x y = codewordCell kind cw bit k i) (hn : 8 * i + (7 - bit) < n) :
    (ownerMaskBits kind k n s).getD (8 * i + (7 - bit)) false = maskArr (curVersion s) s.cfg.ecl (curMask s) x y := by
  obtain ⟨-, h1, -⟩ := hs
  obtain ⟨hbit, -, howner⟩ := cellOfBit_of_layoutCell h1 hx hy h
  rw [ownerMaskBits, List.getD_eq_getElem?_getD, List.getElem?_map, List.getElem?_range hn, Option.map_some, Option.getD_some,
    show (8 * i + (7 - bit)) / 8 = i by omega, show 7 - (8 * i + (7 - bit)) % 8 = bit by omega, howner]

/-- A bit of block k, its cell, and the mask bit there. -/
theorem exists_owner {kind : CwKind} {k j n : Nat} (hmem : ⟨kind, k, j / 8⟩ ∈ cwStream (curRow s)) (hj : j < n) :
    ∃ x y cw, x < curSide s ∧ y < curSide s ∧ curCell s x y = codewordCell kind cw (7 - j % 8) k (j / 8) ∧
      (ownerMaskBits kind k n s).getD j false = maskArr (curVersion s) s.cfg.ecl (curMask s) x y := by
  have ⟨_, h1, h40⟩ := hs
  obtain ⟨x, y, cw, hx, hy, hcell⟩ := exists_layoutCell h1 h40 s.cfg.ecl hmem (bit := 7 - j % 8) (by omega)
  have hmask := ownerMaskBits_of_curCell hs hx hy hcell (n := n) (by dsimp only; omega)
  dsimp only at hmask
  rw [show 8 * (j / 8) + (7 - (7 - j % 8)) = j by omega] at hmask
  exact ⟨x, y, cw, hx, hy, hcell, hmask⟩

end

/-! The template of a block (R320, R323). -/

theorem templateOf_blockTemplate (k : Nat) (s : State) : TemplateOf s (blockTemplate k s) :=
  ⟨rfl, rfl, rfl, rfl, ownerMaskBits_length ..⟩

section
variable {s : State} {k : Nat} (hs : HasLayout s) (hk : k < nblocks (curRow s))
  (hdata : s.len0.toNat = 8 * dataLen (curRow s) k) (hecc : s.len1.toNat = 8 * (curRow s).eccLen)
include hs hk

include hdata in
/-- Data bits that render the labels of the fixed bits have the template's values. -/
theorem dataValue_of_fixedRender {d : Nat → Bool} (hd : FixedRender k s d) {i : Nat} (hi : i < s.len0.toNat)
    (hfixed : i ∉ freeBits s) : d i = (blockTemplate k s).dataValue i := by
  obtain ⟨x, y, cw, hx, hy, hcell, hmask⟩ := exists_owner hs (mem_cwStream_data hk (i := i / 8) (by omega)) hi
  have hplace : 8 * (i / 8) + (7 - (7 - i % 8)) = i := by omega
  have hrender := hd x y cw _ _ hx hy hcell (by rwa [hplace])
  rw [hplace] at hrender
  rw [(templateOf_blockTemplate k s).dataValue hi, ← hrender]
  have hmd : (blockTemplate k s).md = ownerMaskBits .data k s.len0.toNat s := rfl
  rw [hmd, hmask, Bool.xor_assoc, Bool.xor_self, Bool.xor_false]

include hecc in
/-- Redundancy renders the targets when it has the template's values there. -/
theorem targetsRender_iff (ecc : Nat → Nat → Bool) :
    TargetsRender k s ecc ↔ ∀ j ∈ targetBits s, ecc (j / 8) (7 - j % 8) = (blockTemplate k s).targetValue j := by
  have h := templateOf_blockTemplate k s
  have hme : (blockTemplate k s).me = ownerMaskBits .ecc k s.len1.toNat s := rfl
  constructor
  · intro hrender j hj
    have hlt := (mem_targetBits.mp hj).1
    obtain ⟨x, y, cw, hx, hy, hcell, hmask⟩ := exists_owner hs (mem_cwStream_ecc hk (i := j / 8) (by omega)) hlt
    have hplace : 8 * (j / 8) + (7 - (7 - j % 8)) = j := by omega
    have hvalue := hrender x y cw _ _ hx hy hcell (by rwa [hplace])
    rw [hplace] at hvalue
    rw [h.targetValue hj, hme, hmask, ← hvalue, Bool.xor_assoc, Bool.xor_self, Bool.xor_false]
  · intro hvalues x y cw bit i hx hy hcell hj
    have ⟨_, h1, _⟩ := hs
    have hcell : curCell s x y = codewordCell .ecc cw bit k i := hcell
    obtain ⟨hbit, -⟩ := cellOfBit_of_layoutCell h1 hx hy hcell
    have hvalue := hvalues _ hj
    rw [h.targetValue hj, hme, ownerMaskBits_of_curCell hs hx hy hcell (mem_targetBits.mp hj).1,
      show (8 * i + (7 - bit)) / 8 = i by omega, show 7 - (8 * i + (7 - bit)) % 8 = bit by omega] at hvalue
    rw [hvalue, Bool.xor_assoc, Bool.xor_self, Bool.xor_false]

include hdata hecc in
theorem templateOk_blockTemplate : TemplateOk (blockTemplate k s) := by
  obtain ⟨-, h1, h40⟩ := hs
  obtain ⟨he, hmax, hn, -⟩ := supported_block (fun _ => 0) h1 h40 s.cfg.ecl hk
  exact (templateOf_blockTemplate k s).ok hdata hecc hn he hmax

end

/-! The contract. -/

/-- What SOLVEBLK k leaves past its checks: DATA first, then the results common to both forms. -/
def solvedBlockState (draw : Nat → Nat) (k : Nat) (s : State) : State :=
  placeSolution (blockTemplate k s) (solveTemplate draw (blockTemplate k s))
    (writeBuf .data (dataOff (curRow s) k) (packBytes (solveTemplate draw (blockTemplate k s)).bits) s)

/-- Block k of DATA holds the resolved block. -/
theorem readByte_data_solvedBlockState {s : State} {k : Nat} (hk : k < nblocks (curRow s))
    (hdata : s.len0.toNat = 8 * dataLen (curRow s) k) (draw : Nat → Nat) {i : Nat} (hi : i < dataLen (curRow s) k) :
    readByte (solvedBlockState draw k s) (0x3000 + dataOff (curRow s) k + i) =
      (blockBytes s.len0.toNat (resolvedBit (blockTemplate k s) (drawnPass draw (blockTemplate k s)))).getD i 0 := by
  have h := templateOf_blockTemplate k s
  have hend := dataOff_add_dataLen_le (curRow s) hk
  obtain ⟨htotal, -⟩ := blockRow_bounds (curVersion s) s.cfg.ecl
  rw [← curRow.eq_def] at htotal
  rw [solvedBlockState, readByte_placeSolution_of_not_inRange (fun hin => absurd hin.1 (by omega))
    (fun hin => absurd hin.1 (by omega)), solveTemplate_eq, h.td_length]
  exact readByte_writeBuf_of_lt (b := .data) (by rw [← blockBytes, blockBytes_length]; omega)

theorem bytesAt_data_solvedBlockState {s : State} {k : Nat} (hk : k < nblocks (curRow s))
    (hdata : s.len0.toNat = 8 * dataLen (curRow s) k) (draw : Nat → Nat) :
    bytesAt (solvedBlockState draw k s) (0x3000 + dataOff (curRow s) k) (dataLen (curRow s) k) =
      blockBytes s.len0.toNat (resolvedBit (blockTemplate k s) (drawnPass draw (blockTemplate k s))) := by
  have hlen : (blockBytes s.len0.toNat (resolvedBit (blockTemplate k s) (drawnPass draw (blockTemplate k s)))).length =
      dataLen (curRow s) k := by
    rw [blockBytes_length]
    omega
  rw [← hlen]
  exact bytesAt_eq_of_getD fun i hi => readByte_data_solvedBlockState hk hdata draw (by rwa [hlen] at hi)

/-- SOLVEBLK k on a legal template, whatever the draw. -/
theorem solvedBlock_solvedBlockState {s : State} (hs : HasLayout s) {k : Nat} (hk : k < nblocks (curRow s))
    (hdata : s.len0.toNat = 8 * dataLen (curRow s) k) (hecc : s.len1.toNat = 8 * (curRow s).eccLen) (draw : Nat → Nat) :
    SolvedBlock k s (solvedBlockState draw k s) := by
  have h := templateOf_blockTemplate k s
  have hp := templateOk_blockTemplate hs hk hdata hecc
  have hmet := h.targets_met hp draw
    (writeBuf .data (dataOff (curRow s) k) (packBytes (solveTemplate draw (blockTemplate k s)).bits) s)
  have hrender := targetsRender_iff hs hk hecc
  have heccCw : (curRow s).eccLen = (blockTemplate k s).eccCw := by
    rw [h.eccCw]
    omega
  have ⟨_, _, _, _, hmax⟩ := hp
  exact
    { h.solved hp draw _ (writeBuf_draws ..) with
      ecc := by
        rw [bytesAt_data_solvedBlockState hk hdata, solvedBlockState, heccCw, bytesAt_ecc_placeSolution, h.td_length]
        exact isCodeword_append_rs _ (hmax.trans (by decide))
      data_modules := fun x y cw bit i hx hy hcell => by
        have hcell : curCell s x y = codewordCell .data cw bit k i := hcell
        have ⟨_, h1, _⟩ := hs
        obtain ⟨hbit, hmem, -⟩ := cellOfBit_of_layoutCell h1 hx hy hcell
        obtain ⟨-, hindex, -⟩ := mem_cwStream hmem
        have hi : i < dataLen (curRow s) k := hindex rfl
        have hplace : 8 * i + (7 - bit) < s.len0.toNat := by omega
        rw [readByte_data_solvedBlockState hk hdata draw hi, solvedBlockState, h.outBit hp draw _ hplace,
          getLsbD_blockBytes (pb := (i, bit)) (by omega) _ (by dsimp only; omega) hplace,
          ← ownerMaskBits_of_curCell hs hx hy hcell hplace]
        rfl
      targets := fun hrank => (hrender _).mpr (hmet (.inl hrank))
      possible := fun d hfixed hd => (hrender _).mpr (hmet (.inr
        ⟨d, fun i hi hfree => dataValue_of_fixedRender hs hk hdata hfixed hi hfree, (hrender _).mp hd⟩)) }

/-- Settles O48: the unit's draw is among all. -/
theorem blockSolveKeepsTheContract : Obligations.BlockSolveKeepsTheContract := by
  unfold Obligations.BlockSolveKeepsTheContract
  intro s k hs hk hdata hecc hlabels
  obtain ⟨hlayout, hmask⟩ := hs
  have ⟨hlay, _, _⟩ := hlayout
  have hdone : ∀ draw, ∃ t, solveLayoutBlock draw k s = .next t ∧ SolvedBlock k s t := fun draw =>
    ⟨solvedBlockState draw k s, solveLayoutBlock_of_checks hlay hmask hk hdata hecc (badLabel_of_legal hlabels) draw,
      solvedBlock_solvedBlockState hlayout hk hdata hecc draw⟩
  exact ⟨hdone _, hdone⟩

end Sys2Proof.Proofs
end

section
/-! GET and SIZE read a valid grid (R373, R374), and ASSEMBLE repeats what BUILD has done (R370, R371, R372, R377). -/

namespace Sys2Proof.Proofs

open Sys2Proof Sys2Proof.Machine Sys2Proof.Claims

/-! GET and SIZE. -/

theorem exec_get_of_no_grid {s : State} (hgrid : s.cfg.gridv = false) (x y : Nat) :
    exec (.get x y) s = takeFault opGet .nogrid 0 s := by
  simp [exec, execGet, hgrid]

theorem exec_get_of_column_ge {s : State} {x : Nat} (hgrid : s.cfg.gridv = true) (hx : curSide s ≤ x) (y : Nat) :
    exec (.get x y) s = takeFault opGet .range x s := by
  simp [exec, execGet, hgrid, hx]

theorem exec_get_of_row_ge {s : State} {x y : Nat} (hgrid : s.cfg.gridv = true) (hx : x < curSide s) (hy : curSide s ≤ y) :
    exec (.get x y) s = takeFault opGet .range y s := by
  simp [exec, execGet, hgrid, hx, hy]

theorem exec_size_of_no_grid {s : State} (hgrid : s.cfg.gridv = false) : exec .size s = takeFault opSize .nogrid 0 s := by
  simp [exec, execSize, hgrid]

theorem exec_size_of_grid {s : State} (hgrid : s.cfg.gridv = true) : exec .size s = .next (setR0 (curSide s) s) := by
  simp [exec, execSize, hgrid]

/-- Settles O59: the grid is asked for first, then the column and the row are bounded by the side. -/
theorem getAndSizeReadTheGrid : Obligations.GetAndSizeReadTheGrid := by
  unfold Obligations.GetAndSizeReadTheGrid
  refine ⟨fun a b => ⟨decode_packFields .., fun s => ⟨fun hgrid => exec_get_of_no_grid hgrid _ _,
    fun hgrid hx => exec_get_of_column_ge hgrid hx _, fun hgrid hx hy => exec_get_of_row_ge hgrid hx hy,
    fun hgrid hx hy => ?_⟩⟩, decode_packFields .., fun s => ⟨exec_size_of_no_grid, exec_size_of_grid⟩⟩
  rw [exec_get_of_lt hgrid hx hy, setR0, word_toNat_bool]
  rfl

/-! ASSEMBLE after BUILD. -/

/-- Bytes that a canonical BUF already holds change nothing when they are written again (R73). -/
theorem writeBuf_writeBuf_self {b : Buffer} {o : Nat} {vs : List Byte} {s : State} (h : o + vs.length ≤ b.size)
    (hs : s.mem.wf = true) : writeBuf b o vs (writeBuf b o vs s) = writeBuf b o vs s := by
  have hrising : ∀ {m : Memory}, m.wf = true → m.risingFrom 0 = true := fun hm => (Bool.and_eq_true_iff.mp hm).1
  have honce := writeBuf_wf h hs
  have hmem : (writeBuf b o vs (writeBuf b o vs s)).mem = (writeBuf b o vs s).mem := by
    refine Memory.eq_of_read? (hrising (writeBuf_wf h honce)) (hrising honce) fun a => ?_
    simp only [writeBuf_mem, Memory.read?_writeBytes]
    split_ifs <;> rfl
  exact congrArg (fun m => { s with mem := m }) hmem

/-- Bits that GRID already holds change nothing when they are written again (R42). -/
theorem writeGrid_writeGrid_self (bits : List Bool) (s : State) : writeGrid bits (writeGrid bits s) = writeGrid bits s := by
  simp [writeGrid]

/-- What BUILD and ASSEMBLE write, its values given: ECCW, GRID, GRIDV and R0 (R371, R372). -/
def placeSymbol (ecc : List Byte) (bits : List Bool) (n : Nat) (s : State) : State :=
  setR0 n (markGrid (writeGrid bits (writeBuf .eccw 0 ecc s)))

theorem assembleSymbol_eq_placeSymbol (data : List Byte) (s : State) :
    assembleSymbol data s = placeSymbol (blocksEcc (curRow s) data)
      (matrixBits (curVersion s) s.cfg.ecl (curMask s) data (blocksEcc (curRow s) data)) (curSide s) s := rfl

/-- The four writes do not read one another, so two rounds of them are each write done twice. -/
theorem placeSymbol_placeSymbol_self {ecc : List Byte} (bits : List Bool) (n : Nat) {s : State}
    (h : 0 + ecc.length ≤ Buffer.eccw.size) (hs : s.mem.wf = true) :
    placeSymbol ecc bits n (placeSymbol ecc bits n s) = placeSymbol ecc bits n s :=
  calc placeSymbol ecc bits n (placeSymbol ecc bits n s)
      = setR0 n (markGrid (writeGrid bits (writeGrid bits (writeBuf .eccw 0 ecc (writeBuf .eccw 0 ecc s))))) := rfl
    _ = placeSymbol ecc bits n s := by
      rw [writeGrid_writeGrid_self, writeBuf_writeBuf_self h hs, placeSymbol]

/-- The symbol depends on the data codewords, the layout and the mask, which assembling it keeps (R370, R375). -/
theorem assembleSymbol_assembleSymbol_self (data : List Byte) {s : State} (hs : s.mem.wf = true) :
    assembleSymbol data (assembleSymbol data s) = assembleSymbol data s := by
  have hagain : assembleSymbol data (assembleSymbol data s) =
      placeSymbol (blocksEcc (curRow s) data)
        (matrixBits (curVersion s) s.cfg.ecl (curMask s) data (blocksEcc (curRow s) data)) (curSide s)
        (assembleSymbol data s) := assembleSymbol_eq_placeSymbol ..
  rw [hagain, assembleSymbol_eq_placeSymbol, placeSymbol_placeSymbol_self _ _ (blocksEcc_fits s data) hs]

/-- The data codewords of the current layout fit BITS and DATA (R41, R255). -/
theorem dataTotal_curRow_le (s : State) : dataTotal (curRow s) ≤ 4096 :=
  (blockRow_bounds (curVersion s) s.cfg.ecl).1.trans (by decide)

/-- ASSEMBLE, after the symbol of the codewords that DATA holds, changes nothing (R372). -/
theorem exec_assemble_assembleSymbol {s : State} (hs : HasLayoutAndMask s) (hwf : s.mem.wf = true) {data : List Byte}
    (hdata : bytesAt s 0x3000 (dataTotal (curRow s)) = data) :
    exec .assemble (assembleSymbol data s) = .next (assembleSymbol data s) := by
  have hkept := bytesAt_assembleSymbol_data data s printedTables (o := 0) ((Nat.zero_add _).trans_le (dataTotal_curRow_le s))
  have hagain := exec_assemble_of_layout (s := assembleSymbol data s) hs
  rw [curRow_assembleSymbol] at hagain
  rw [hagain, hkept, hdata, assembleSymbol_assembleSymbol_self data hwf]

/-- Settles O58: BUILD leaves in DATA the codewords it has assembled, so ASSEMBLE assembles them again. -/
theorem assembleAfterBuildChangesNothing : Obligations.AssembleAfterBuildChangesNothing := by
  unfold Obligations.AssembleAfterBuildChangesNothing
  intro s hs hwf hblen
  have hlen : (bytesAt s 0x2000 (dataTotal (curRow s))).length = dataTotal (curRow s) := by simp [bytesAt]
  have hmoved := bytesAt_writeBuf .data (bytesAt s 0x2000 (dataTotal (curRow s))) s
  rw [hlen] at hmoved
  refine ⟨_, exec_build_of_layout hs hblen,
    exec_assemble_assembleSymbol (s := writeBuf .data 0 _ s) hs (writeBuf_wf ?_ hwf) ?_⟩
  · rw [hlen, Nat.zero_add]
    exact dataTotal_curRow_le s
  · rw [curRow_writeBuf]
    exact hmoved

end Sys2Proof.Proofs
end

section
/-! Faults and outcomes: every command and every step answers a next state (R401, R471), and a fault writes STATUS only
(R404). -/

namespace Sys2Proof.Proofs

open Sys2Proof Sys2Proof.Machine Sys2Proof.Claims

/-! What answers a next state. -/

/-- The outcome is a next state: the model does not stop. -/
def AnswersNext (r : Result) : Prop := ∃ t, r = .next t

theorem answersNext_next (t : State) : AnswersNext (.next t) := ⟨t, rfl⟩

/-- A raised fault is a next state (R401). -/
theorem answersNext_takeFault (op : Byte) (code : FaultCode) (info : Nat) (s : State) :
    AnswersNext (takeFault op code info s) :=
  answersNext_next _

theorem answersNext_ite {c : Prop} [Decidable c] {r r' : Result} (h : AnswersNext r) (h' : AnswersNext r') :
    AnswersNext (if c then r else r') := by
  split_ifs
  · exact h
  · exact h'

/-- An outcome behind a check that raises a fault. -/
theorem answersNext_guard {c : Prop} [Decidable c] {op : Byte} {code : FaultCode} {info : Nat} {s : State} {r : Result}
    (h : AnswersNext r) : AnswersNext (if c then takeFault op code info s else r) :=
  answersNext_ite (answersNext_takeFault ..) h

/-! Command by command. -/

theorem answersNext_layout (v e : Nat) (s : State) : AnswersNext (exec (.layout v e) s) := by
  refine answersNext_guard ?_
  cases levelOf? e with
  | none => exact answersNext_takeFault ..
  | some l => exact answersNext_next _

/-- The checks ENC and ENCV share raise a fault or go on (R290, R291). -/
theorem answersNext_afterChecks {op : Byte} {e m : Nat} {s : State} {body : Level → Mode → Result}
    (h : ∀ l md, AnswersNext (body l md)) : AnswersNext (afterChecks op e m s body) := by
  unfold afterChecks
  cases levelOf? e with
  | none => exact answersNext_takeFault ..
  | some l =>
  cases modeOf? m with
  | none => exact answersNext_takeFault ..
  | some md =>
  refine answersNext_guard ?_
  cases firstUnfit md (payload s) with
  | some i => exact answersNext_takeFault ..
  | none => exact h l md

theorem answersNext_enc (e m : Nat) (s : State) : AnswersNext (exec (.enc e m) s) := by
  rw [exec_enc]
  refine answersNext_afterChecks fun l md => ?_
  unfold encodeAtFirst
  cases (List.range' 1 40).find? (holdsSegmentation l md (payload s)) with
  | none => exact answersNext_takeFault ..
  | some v => exact answersNext_next _

theorem answersNext_encv (v e m : Nat) (s : State) : AnswersNext (exec (.encv v e m) s) := by
  by_cases hv : v < 1 ∨ v > Config.maxVersion
  · exact ⟨_, if_pos hv⟩
  · obtain ⟨h1, h40⟩ := not_or.mp hv
    rw [exec_encv_of_range (Nat.not_lt.mp h1) (Nat.not_lt.mp h40)]
    exact answersNext_afterChecks fun _ _ => answersNext_ite (answersNext_next _) (answersNext_takeFault ..)

theorem answersNext_solveblk (k : Nat) (raw : Bool) (s : State) : AnswersNext (exec (.solveblk k raw) s) := by
  refine answersNext_ite (answersNext_guard (answersNext_guard (answersNext_guard (answersNext_guard ?_))))
    (answersNext_guard (answersNext_guard (answersNext_guard (answersNext_guard (answersNext_guard ?_)))))
  all_goals
    cases badLabel s with
    | some i => exact answersNext_takeFault ..
    | none => exact answersNext_next _

/-- No command stops the model: it completes or raises a fault (R401, R471). -/
theorem answersNext_exec (i : Instr) (s : State) : AnswersNext (exec i s) := by
  cases i with
  | nop | clrf | gfadd | gfmul | gfexp | gflog | gfrow => exact answersNext_next _
  | gfgen | setmask | verinfo | capinfo | size => exact answersNext_guard (answersNext_next _)
  | fmtinfo | blkinfo | assemble => exact answersNext_guard (answersNext_guard (answersNext_next _))
  | cell | build | get => exact answersNext_guard (answersNext_guard (answersNext_guard (answersNext_next _)))
  | maskbit =>
    exact answersNext_guard (answersNext_guard (answersNext_guard (answersNext_guard (answersNext_next _))))
  | rsenc => exact answersNext_ite (answersNext_next _) (answersNext_takeFault ..)
  | rsbit => exact answersNext_guard (answersNext_ite (answersNext_next _) (answersNext_takeFault ..))
  | layout v e => exact answersNext_layout v e s
  | enc e m => exact answersNext_enc e m s
  | encv v e m => exact answersNext_encv v e m s
  | solveblk k raw => exact answersNext_solveblk k raw s

/-! The host port (R61, R120, R450). -/

/-- No word written to CMD stops the model: it is dropped, illegal or a command (R120). -/
theorem answersNext_issueCommand (w : Word) (s : State) : AnswersNext (issueCommand w s) := by
  obtain ⟨-, -, hissue⟩ | ⟨-, -, hissue⟩ | ⟨-, i, -, hissue⟩ | ⟨-, e, -, hissue⟩ := issueCommand_cases w s <;>
    rw [hissue]
  · exact answersNext_exec ..
  · exact answersNext_next _
  · exact answersNext_exec ..
  · exact answersNext_next _

theorem answersNext_perform (act : HostAction) (s : State) : AnswersNext (perform act s) := by
  cases act with
  | regWrite i v => exact answersNext_ite (answersNext_issueCommand v s) (answersNext_next _)
  | regRead | memRead | memWrite | reset => exact answersNext_next _

theorem answersNext_step (s : State) : AnswersNext (step s) := by
  obtain ⟨-, hstep⟩ | ⟨act, rest, -, hstep⟩ := step_cases s <;> rw [hstep]
  · exact answersNext_next _
  · exact answersNext_perform ..

/-- Settles O7: every check of a command raises a fault or goes on, and a step is a command, another host access or idle. -/
theorem everyCommandAndStepAnswersNext : Obligations.EveryCommandAndStepAnswersNext := by
  unfold Obligations.EveryCommandAndStepAnswersNext
  exact ⟨answersNext_exec, answersNext_step⟩

/-! Faults (R404, R405). -/

/-- Of the effects of a command other than CLRF only a fault writes STATUS, with a code other than E_ASSERT's. -/
theorem Effect.raised_of_status_ne {i : Instr} {s t : State} (h : Effect i s t) (ht : t.status ≠ s.status)
    (hi : i ≠ .clrf) : ∃ code info, code ≠ .assert ∧ t = raise (fieldOp (encode i)) code info s := by
  cases h with
  | raised hop hcode => exact ⟨_, _, hcode, by rw [hop]⟩
  | cleared h => exact absurd h hi
  | _ => exact absurd (by simp) ht

/-- Settles O8: the state a raised fault leaves differs from the one before in STATUS alone. -/
theorem faultWritesStatusOnly : Obligations.FaultWritesStatusOnly := by
  unfold Obligations.FaultWritesStatusOnly
  exact fun i s t h => (effect_of_exec h).raised_of_status_ne

end Sys2Proof.Proofs
end
